-- ==== Sys2Proof/Word.lean ====
section
/-! DEFINITION. The word type of the stream and the widths of its fields (spec/00_scope.md R6, R8, R9). -/

namespace Sys2Proof

/-- One stream word: a 32-bit unsigned integer, bit `n` of weight `2^n` (R8, R90). -/
abbrev Word := BitVec 32

/-- The 4-bit word id, bits 31..28 of a word (R90). -/
abbrev WordId := BitVec 4

/-- A 28-bit GTS tag (R12, R94). -/
abbrev GtsTag := BitVec 28

/-- An 8-bit board id (R93). -/
abbrev BoardId := BitVec 8

/-- An 8-bit channel id (R95). -/
abbrev ChannelId := BitVec 8

/-- A 3-bit hit id (R95). -/
abbrev HitId := BitVec 3

/-- The 2-bit truncation of a GTS tag that a hit word carries (R12, R95). -/
abbrev TagId := BitVec 2

end Sys2Proof
end

