-- ==== Sys2Proof/Syntax.lean ====
section
/-! DEFINITION. The instructions of the block: one constructor for each row of spec/opcode_table.json, with the
fields of its payload layout (spec/30_encoding.md R91 to R108) in the order of the layout, most significant first.
Every field has exactly the width of its layout, so an out-of-range field value cannot be written. Where the layout
leaves payload bits out, the last argument `unused` holds them: it is no field of the word and no rule reads it (R109); it
is there because a decoded word also has its whole `raw` word (R31, R130), which `Instr.raw` puts together again. Where a
term does not give `unused`, it is 0, as in the canonical encoding (R113). -/

namespace Sys2Proof

/-- One decoded stream word (R3, R31): its kind is the constructor, its fields are the arguments, its raw word is
`Instr.raw`. -/
inductive Instr where
  /-- GateHeader with `header_type = 0` (R93). -/
  | gateHeaderType0 (boardId : BoardId) (gateType : BitVec 3) (gateNumber : BitVec 16)
  /-- GateHeader with `header_type = 1` (R93); `unused` is bits 18..11 (R109). -/
  | gateHeaderType1 (boardId : BoardId) (gateTimeFromGts : BitVec 11) (unused : BitVec 8 := 0#8)
  /-- GTSHeader (R94). -/
  | gtsHeader (gtsTag : GtsTag)
  /-- HitTime (R95); `edge` 0 is rising, 1 is falling (R112); `unused` is bit 13 (R109). -/
  | hitTime (channelId : ChannelId) (hitId : HitId) (tagId : TagId) (edge : BitVec 1) (time : BitVec 13)
      (unused : BitVec 1 := 0#1)
  /-- HitAmplitude (R96); `amplitudeId` 2 is high gain, every other value low gain (R112). -/
  | hitAmplitude (channelId : ChannelId) (hitId : HitId) (tagId : TagId) (amplitudeId : BitVec 3)
      (amplitudeValue : BitVec 12)
  /-- GTSTrailer1 (R97). -/
  | gtsTrailer1 (gtsTag : GtsTag)
  /-- GTSTrailer2 (R98); `unused` is bits 24..20 (R109). -/
  | gtsTrailer2 (data : BitVec 1) (ocbBusy : BitVec 1) (febBusy : BitVec 1) (gtsTime : BitVec 20) (unused : BitVec 5 := 0#5)
  /-- GateTrailer (R99); `unused` is bit 19 (R109). -/
  | gateTrailer (boardId : BoardId) (gateType : BitVec 3) (gateNumber : BitVec 16) (unused : BitVec 1 := 0#1)
  /-- GateTime (R100). -/
  | gateTime (time : BitVec 28)
  /-- OCBPacketHeader (R101). -/
  | ocbPacketHeader (gateType : BitVec 3) (gateTag : BitVec 2) (eventNumber : BitVec 23)
  /-- OCBPacketTrailer (R102); `unused` is bits 22..16 (R109). -/
  | ocbPacketTrailer (gateType : BitVec 3) (gateTag : BitVec 2) (errors : BitVec 16) (unused : BitVec 7 := 0#7)
  /-- A word of the reserved id 0xA; its 28 payload bits have no meaning (R103). -/
  | reserved0xA (payload : BitVec 28 := 0#28)
  /-- HoldTime (R104); `unused` is bits 18..11 (R109). -/
  | holdTime (boardId : BoardId) (headerType : BitVec 1) (time : BitVec 11) (unused : BitVec 8 := 0#8)
  /-- EventDone (R105). -/
  | eventDone (boardId : BoardId) (gateNumber : BitVec 4) (wordCount : BitVec 16)
  /-- FEBDataPacketTrailer (R106). -/
  | febDataPacketTrailer (boardId : BoardId) (artificialTrl2 : BitVec 1) (eventDoneTimeout : BitVec 1)
      (d1FifoFull : BitVec 1) (d0FifoFull : BitVec 1) (rbCntError : BitVec 1) (nbDecoderErrors : BitVec 15)
  /-- Housekeeping, payload opaque (R107). -/
  | housekeeping (payload : BitVec 28)
  /-- Special, payload opaque (R108). -/
  | special (payload : BitVec 28)
deriving DecidableEq, Repr

end Sys2Proof
end

