-- ==== Sys2Proof/WellFormed.lean ====
section
/-! DEFINITION. Which terms of `Instr` are decoded words. The widths of the fields are in their types, so the one
check left is the Word Decoder's: "the top-4 id corresponds to a known variant" (spec/40_word_decoder.md R147). -/

namespace Sys2Proof

/-- The word id of an instruction (R91). -/
def Instr.wordId : Instr → WordId
  | .gateHeaderType0 _ _ _ => 0x0#4
  | .gateHeaderType1 _ _ _ => 0x0#4
  | .gtsHeader _ => 0x1#4
  | .hitTime _ _ _ _ _ _ => 0x2#4
  | .hitAmplitude _ _ _ _ _ => 0x3#4
  | .gtsTrailer1 _ => 0x4#4
  | .gtsTrailer2 _ _ _ _ _ => 0x5#4
  | .gateTrailer _ _ _ _ => 0x6#4
  | .gateTime _ => 0x7#4
  | .ocbPacketHeader _ _ _ => 0x8#4
  | .ocbPacketTrailer _ _ _ _ => 0x9#4
  | .reserved0xA _ => 0xA#4
  | .holdTime _ _ _ _ => 0xB#4
  | .eventDone _ _ _ => 0xC#4
  | .febDataPacketTrailer _ _ _ _ _ _ _ => 0xD#4
  | .housekeeping _ => 0xE#4
  | .special _ => 0xF#4

/-- The id names one of the 15 known kinds: every id but the reserved 0xA (R91, R110). -/
def WordId.known (id : WordId) : Bool := id != 0xA#4

/-- The instruction is a word of one of the 15 known kinds, what the Word Decoder can produce (R130, R147). -/
def Instr.wellFormed (i : Instr) : Bool := WordId.known i.wordId

/-- The kinds an envelope's interior can hold: every known kind but OCBPacketHeader and OCBPacketTrailer, the
13 kinds that spec/44_stream_driver.md R273 lists. -/
def Instr.interior : Instr → Bool
  | .gateHeaderType0 _ _ _ => true
  | .gateHeaderType1 _ _ _ => true
  | .gtsHeader _ => true
  | .hitTime _ _ _ _ _ _ => true
  | .hitAmplitude _ _ _ _ _ => true
  | .gtsTrailer1 _ => true
  | .gtsTrailer2 _ _ _ _ _ => true
  | .gateTrailer _ _ _ _ => true
  | .gateTime _ => true
  | .ocbPacketHeader _ _ _ => false
  | .ocbPacketTrailer _ _ _ _ => false
  | .reserved0xA _ => false
  | .holdTime _ _ _ _ => true
  | .eventDone _ _ _ => true
  | .febDataPacketTrailer _ _ _ _ _ _ _ => true
  | .housekeeping _ => true
  | .special _ => true

end Sys2Proof
end

