-- ==== Sys2Proof/Decode.lean ====
section
/-! DEFINITION. The Word Decoder (spec/40_word_decoder.md) and the canonical encoder (spec/30_encoding.md §4). -/

namespace Sys2Proof

/-- `field(raw, start, length) = (raw >> start) & ((1 << length) - 1)` as a value of `length` bits (R8, R92). -/
def field (raw : Word) (start length : Nat) : BitVec length := raw.extractLsb' start length

/-- The word id of a raw word, `field(raw, 28, 4)` (R90, R130). -/
def idOf (raw : Word) : WordId := field raw 28 4

/-- GateHeader (R131): `header_type`, bit 19, selects the layout of the rest; bits 18..11 of type 1 are in no field. -/
def decodeGateHeader (raw : Word) : Instr :=
  if field raw 19 1 = 0#1 then .gateHeaderType0 (field raw 20 8) (field raw 16 3) (field raw 0 16)
  else .gateHeaderType1 (field raw 20 8) (field raw 0 11) (field raw 11 8)

/-- GTSHeader (R132). -/
def decodeGtsHeader (raw : Word) : Instr := .gtsHeader (field raw 0 28)

/-- HitTime (R133); bit 13 is in no field. -/
def decodeHitTime (raw : Word) : Instr :=
  .hitTime (field raw 20 8) (field raw 17 3) (field raw 15 2) (field raw 14 1) (field raw 0 13) (field raw 13 1)

/-- HitAmplitude (R134). -/
def decodeHitAmplitude (raw : Word) : Instr :=
  .hitAmplitude (field raw 20 8) (field raw 17 3) (field raw 15 2) (field raw 12 3) (field raw 0 12)

/-- GTSTrailer1 (R135). -/
def decodeGtsTrailer1 (raw : Word) : Instr := .gtsTrailer1 (field raw 0 28)

/-- GTSTrailer2 (R136); bits 24..20 are in no field. -/
def decodeGtsTrailer2 (raw : Word) : Instr :=
  .gtsTrailer2 (field raw 27 1) (field raw 26 1) (field raw 25 1) (field raw 0 20) (field raw 20 5)

/-- GateTrailer (R137); bit 19 is in no field. -/
def decodeGateTrailer (raw : Word) : Instr :=
  .gateTrailer (field raw 20 8) (field raw 16 3) (field raw 0 16) (field raw 19 1)

/-- GateTime (R138). -/
def decodeGateTime (raw : Word) : Instr := .gateTime (field raw 0 28)

/-- OCBPacketHeader (R139). -/
def decodeOcbPacketHeader (raw : Word) : Instr :=
  .ocbPacketHeader (field raw 25 3) (field raw 23 2) (field raw 0 23)

/-- OCBPacketTrailer (R140); bits 22..16 are in no field. -/
def decodeOcbPacketTrailer (raw : Word) : Instr :=
  .ocbPacketTrailer (field raw 25 3) (field raw 23 2) (field raw 0 16) (field raw 16 7)

/-- HoldTime (R142); bits 18..11 are in no field. -/
def decodeHoldTime (raw : Word) : Instr :=
  .holdTime (field raw 20 8) (field raw 19 1) (field raw 0 11) (field raw 11 8)

/-- EventDone (R143). -/
def decodeEventDone (raw : Word) : Instr := .eventDone (field raw 20 8) (field raw 16 4) (field raw 0 16)

/-- FEBDataPacketTrailer (R144). -/
def decodeFebDataPacketTrailer (raw : Word) : Instr :=
  .febDataPacketTrailer (field raw 20 8) (field raw 19 1) (field raw 18 1) (field raw 17 1) (field raw 16 1)
    (field raw 15 1) (field raw 0 15)

/-- Housekeeping (R145). -/
def decodeHousekeeping (raw : Word) : Instr := .housekeeping (field raw 0 28)

/-- Special (R146). -/
def decodeSpecial (raw : Word) : Instr := .special (field raw 0 28)

/-- The decoder's dispatch, "a direct match on the id" (R130), total on all 2^32 words. The reserved id 0xA is a
name of its own (log 9), which `wordDecode` rejects and whose execution raises InvalidWord. The last arm is id 0xF, the
one 4-bit value that the others leave. -/
def decode (raw : Word) : Instr :=
  match (idOf raw).toNat with
  | 0x0 => decodeGateHeader raw
  | 0x1 => decodeGtsHeader raw
  | 0x2 => decodeHitTime raw
  | 0x3 => decodeHitAmplitude raw
  | 0x4 => decodeGtsTrailer1 raw
  | 0x5 => decodeGtsTrailer2 raw
  | 0x6 => decodeGateTrailer raw
  | 0x7 => decodeGateTime raw
  | 0x8 => decodeOcbPacketHeader raw
  | 0x9 => decodeOcbPacketTrailer raw
  | 0xA => .reserved0xA (field raw 0 28)
  | 0xB => decodeHoldTime raw
  | 0xC => decodeEventDone raw
  | 0xD => decodeFebDataPacketTrailer raw
  | 0xE => decodeHousekeeping raw
  | _ => decodeSpecial raw

/-- How the Word Decoder fails: `InvalidWord`, carrying the observed word id (R130). -/
inductive DecodeError where
  | invalidWord (id : WordId)
deriving DecidableEq, Repr

/-- `decode(raw)` with its contract: "produce a Word variant or fail with `InvalidWord` carrying the observed word
id" (R130, R141). -/
def wordDecode (raw : Word) : Except DecodeError Instr :=
  if (decode raw).wellFormed then .ok (decode raw) else .error (.invalidWord (idOf raw))

/-- `value << lo` as a 32-bit word, the summand of a field in R113. -/
def place {n : Nat} (value : BitVec n) (lo : Nat) : Word := value.setWidth 32 <<< lo

/-- The payload of the canonical encoding: the OR over the fields of `value << lo`, every unused bit 0 (R113). -/
def encodePayload : Instr → Word
  | .gateHeaderType0 boardId gateType gateNumber => place boardId 20 ||| place gateType 16 ||| place gateNumber 0
  | .gateHeaderType1 boardId gateTimeFromGts _ => place boardId 20 ||| place 1#1 19 ||| place gateTimeFromGts 0
  | .gtsHeader gtsTag => place gtsTag 0
  | .hitTime channelId hitId tagId edge time _ =>
      place channelId 20 ||| place hitId 17 ||| place tagId 15 ||| place edge 14 ||| place time 0
  | .hitAmplitude channelId hitId tagId amplitudeId amplitudeValue =>
      place channelId 20 ||| place hitId 17 ||| place tagId 15 ||| place amplitudeId 12 ||| place amplitudeValue 0
  | .gtsTrailer1 gtsTag => place gtsTag 0
  | .gtsTrailer2 data ocbBusy febBusy gtsTime _ =>
      place data 27 ||| place ocbBusy 26 ||| place febBusy 25 ||| place gtsTime 0
  | .gateTrailer boardId gateType gateNumber _ => place boardId 20 ||| place gateType 16 ||| place gateNumber 0
  | .gateTime time => place time 0
  | .ocbPacketHeader gateType gateTag eventNumber => place gateType 25 ||| place gateTag 23 ||| place eventNumber 0
  | .ocbPacketTrailer gateType gateTag errors _ => place gateType 25 ||| place gateTag 23 ||| place errors 0
  | .reserved0xA _ => 0#32
  | .holdTime boardId headerType time _ => place boardId 20 ||| place headerType 19 ||| place time 0
  | .eventDone boardId gateNumber wordCount => place boardId 20 ||| place gateNumber 16 ||| place wordCount 0
  | .febDataPacketTrailer boardId artificialTrl2 eventDoneTimeout d1FifoFull d0FifoFull rbCntError nbDecoderErrors =>
      place boardId 20 ||| place artificialTrl2 19 ||| place eventDoneTimeout 18 ||| place d1FifoFull 17 |||
        place d0FifoFull 16 ||| place rbCntError 15 ||| place nbDecoderErrors 0
  | .housekeeping payload => place payload 0
  | .special payload => place payload 0

/-- `encode(kind, fields) = (id(kind) << 28) | OR over fields of (value << lo)` (R113).
DESIGN CHOICE, safe (log 9): the reserved id, which R113 gives no encoding, is written with payload 0. -/
def encode (i : Instr) : Word := place i.wordId 28 ||| encodePayload i

/-- The bits of a word that its layout leaves out, in their place; of the reserved id the whole payload (R109). -/
def unusedPayload : Instr → Word
  | .gateHeaderType0 _ _ _ => 0#32
  | .gateHeaderType1 _ _ unused => place unused 11
  | .gtsHeader _ => 0#32
  | .hitTime _ _ _ _ _ unused => place unused 13
  | .hitAmplitude _ _ _ _ _ => 0#32
  | .gtsTrailer1 _ => 0#32
  | .gtsTrailer2 _ _ _ _ unused => place unused 20
  | .gateTrailer _ _ _ unused => place unused 19
  | .gateTime _ => 0#32
  | .ocbPacketHeader _ _ _ => 0#32
  | .ocbPacketTrailer _ _ _ unused => place unused 16
  | .reserved0xA payload => place payload 0
  | .holdTime _ _ _ unused => place unused 11
  | .eventDone _ _ _ => 0#32
  | .febDataPacketTrailer _ _ _ _ _ _ _ => 0#32
  | .housekeeping _ => 0#32
  | .special _ => 0#32

/-- `w.raw`: the raw word of a decoded word (R31, R130), its unused payload bits included (R109). -/
def Instr.raw (i : Instr) : Word := encode i ||| unusedPayload i

/-- The word with the same kind and fields whose unused bits are 0, what the canonical encoding stands for (R113). -/
def Instr.clearUnused : Instr → Instr
  | .gateHeaderType0 boardId gateType gateNumber => .gateHeaderType0 boardId gateType gateNumber
  | .gateHeaderType1 boardId gateTimeFromGts _ => .gateHeaderType1 boardId gateTimeFromGts 0#8
  | .gtsHeader gtsTag => .gtsHeader gtsTag
  | .hitTime channelId hitId tagId edge time _ => .hitTime channelId hitId tagId edge time 0#1
  | .hitAmplitude channelId hitId tagId amplitudeId amplitudeValue =>
      .hitAmplitude channelId hitId tagId amplitudeId amplitudeValue
  | .gtsTrailer1 gtsTag => .gtsTrailer1 gtsTag
  | .gtsTrailer2 data ocbBusy febBusy gtsTime _ => .gtsTrailer2 data ocbBusy febBusy gtsTime 0#5
  | .gateTrailer boardId gateType gateNumber _ => .gateTrailer boardId gateType gateNumber 0#1
  | .gateTime time => .gateTime time
  | .ocbPacketHeader gateType gateTag eventNumber => .ocbPacketHeader gateType gateTag eventNumber
  | .ocbPacketTrailer gateType gateTag errors _ => .ocbPacketTrailer gateType gateTag errors 0#7
  | .reserved0xA _ => .reserved0xA 0#28
  | .holdTime boardId headerType time _ => .holdTime boardId headerType time 0#8
  | .eventDone boardId gateNumber wordCount => .eventDone boardId gateNumber wordCount
  | .febDataPacketTrailer boardId artificialTrl2 eventDoneTimeout d1FifoFull d0FifoFull rbCntError nbDecoderErrors =>
      .febDataPacketTrailer boardId artificialTrl2 eventDoneTimeout d1FifoFull d0FifoFull rbCntError nbDecoderErrors
  | .housekeeping payload => .housekeeping payload
  | .special payload => .special payload

/-- The payload bits that the layout of an instruction's kind leaves out (R109). -/
def unusedBits : Instr → Word
  | .gateHeaderType0 _ _ _ => 0#32
  | .gateHeaderType1 _ _ _ => 0x0007F800#32
  | .gtsHeader _ => 0#32
  | .hitTime _ _ _ _ _ _ => 0x00002000#32
  | .hitAmplitude _ _ _ _ _ => 0#32
  | .gtsTrailer1 _ => 0#32
  | .gtsTrailer2 _ _ _ _ _ => 0x01F00000#32
  | .gateTrailer _ _ _ _ => 0x00080000#32
  | .gateTime _ => 0#32
  | .ocbPacketHeader _ _ _ => 0#32
  | .ocbPacketTrailer _ _ _ _ => 0x007F0000#32
  | .reserved0xA _ => 0x0FFFFFFF#32
  | .holdTime _ _ _ _ => 0x0007F800#32
  | .eventDone _ _ _ => 0#32
  | .febDataPacketTrailer _ _ _ _ _ _ _ => 0#32
  | .housekeeping _ => 0#32
  | .special _ => 0#32

/-- The `mask` of an instruction's row of spec/opcode_table.json. -/
def opcodeMask : Instr → Word
  | .gateHeaderType0 _ _ _ => 0xF0080000#32
  | .gateHeaderType1 _ _ _ => 0xF0080000#32
  | _ => 0xF0000000#32

/-- The `match` of an instruction's row of spec/opcode_table.json; no two rows have the same. -/
def opcodeMatch : Instr → Word
  | .gateHeaderType0 _ _ _ => 0x00000000#32
  | .gateHeaderType1 _ _ _ => 0x00080000#32
  | .gtsHeader _ => 0x10000000#32
  | .hitTime _ _ _ _ _ _ => 0x20000000#32
  | .hitAmplitude _ _ _ _ _ => 0x30000000#32
  | .gtsTrailer1 _ => 0x40000000#32
  | .gtsTrailer2 _ _ _ _ _ => 0x50000000#32
  | .gateTrailer _ _ _ _ => 0x60000000#32
  | .gateTime _ => 0x70000000#32
  | .ocbPacketHeader _ _ _ => 0x80000000#32
  | .ocbPacketTrailer _ _ _ _ => 0x90000000#32
  | .reserved0xA _ => 0xA0000000#32
  | .holdTime _ _ _ _ => 0xB0000000#32
  | .eventDone _ _ _ => 0xC0000000#32
  | .febDataPacketTrailer _ _ _ _ _ _ _ => 0xD0000000#32
  | .housekeeping _ => 0xE0000000#32
  | .special _ => 0xF0000000#32

/-- The stream word whose low `nbits` bits are those of `w` and whose other bits are 0. The block takes its words
already assembled, so there is no byte order to apply (R62). -/
def tableWord (nbits w : Nat) : Word := BitVec.ofNat 32 (w % 2 ^ nbits)

/-- The instruction the decoder reads from the bits of an opcode-table row; every 32-bit word is one (R130, R147),
the reserved id among them under its own name. -/
def decodeTableWord (nbits w : Nat) : Option Instr := some (decode (tableWord nbits w))

end Sys2Proof
end

