-- ==== Sys2Proof/Config.lean ====
section
/-! DEFINITION. The constants of the hardware and the parameters it leaves to the implementation
(spec/00_scope.md R6, R7; spec/10_state.md R50, R51). -/

namespace Sys2Proof

/-- "GTS-header pre-event threshold used by §4.4 word counting" (R6, R50). -/
def Config.numGtsBeforeEvent : Nat := 2

/-- "FEB array size" (R6, R50). -/
def Config.numFebsPerOcb : Nat := 9

/-- What the Stream Driver does with a word outside an envelope: `STRAY_WORD_POLICY` (R7). -/
inductive StrayPolicy where
  /-- The word is dropped and the position advances. -/
  | discard
  /-- The word raises StrayWord. -/
  | fault
deriving DecidableEq, Repr

/-- The two open parameters of the step relation, constant over a run (R7, R51).
DESIGN CHOICE, safe (log 5): they are data of the state, so that a statement over every state covers every value. -/
structure Params where
  /-- `STRAY_WORD_POLICY`. -/
  strayPolicy : StrayPolicy
  /-- `MAX_OCB_WORDS`, the capacity of `SD.buf` in words; `none` is unbounded. -/
  maxOcbWords : Option Nat
deriving DecidableEq, Repr

/-- The values this spec takes for the open parameters: discard, unbounded (R7). -/
def Params.default : Params := { strayPolicy := .discard, maxOcbWords := none }

/-- `BYTE_ORDER`, a parameter of the byte source outside the block (R7, R61). -/
inductive ByteOrder where
  | little
  | big
deriving DecidableEq, Repr

/-- "the default is little-endian; a flag selects big-endian" (R61). -/
def ByteOrder.default : ByteOrder := .little

end Sys2Proof
end

