-- ==== Sys2Proof/Machine/State.lean ====
section
/-! DEFINITION. The state of the five units, the records they build and emit, and the state after reset
(spec/10_state.md, spec/60_exceptions.md). -/

namespace Sys2Proof.Machine

/-- The fatal errors (R290), each with the information R291 to R304 record. A fatal error is taken, not a stop: the
state after it is that of R277. -/
inductive FatalError where
  /-- Code 1 (R291). -/
  | invalidWord (id : WordId)
  /-- Code 2 (R292): the (gate_type, gate_tag) pairs of header and trailer. -/
  | ocbEnvelopeMismatch (headerType : BitVec 3) (headerTag : BitVec 2) (trailerType : BitVec 3) (trailerTag : BitVec 2)
  /-- Code 3 (R293). -/
  | nestedOcbHeader
  /-- Code 4 (R294): the number of buffered words. -/
  | truncatedStream (buffered : Nat)
  /-- Code 5 (R295): the index of the trailer in the envelope. -/
  | febTrailerWithoutHeader (index : Nat)
  /-- Code 6 (R296). -/
  | febPacketEmpty
  /-- Code 7 (R297). -/
  | hitTagMismatch (tagId : TagId) (currentTag : Option GtsTag) (previousTag : Option GtsTag)
  /-- Code 8 (R298). -/
  | trailerTagMismatch (gtsTag : GtsTag) (currentTag : Option GtsTag)
  /-- Code 9 (R299). -/
  | trailerWithoutHeader
  /-- Code 10 (R300): the key. -/
  | duplicateRisingEdge (channelId : ChannelId) (hitId : HitId)
  /-- Code 11 (R301): the key. -/
  | fallingBeforeRising (channelId : ChannelId) (hitId : HitId)
  /-- Code 12 (R302): the channel. -/
  | duplicateGainLG (channelId : ChannelId)
  /-- Code 13 (R303): the channel. -/
  | duplicateGainHG (channelId : ChannelId)
  /-- Code 14 (R304). -/
  | febEnvelopeViolation
  /-- Code 15 (R304). -/
  | ocbEnvelopeViolation
  /-- Code 16 (R304): the id of the stray word (R275). -/
  | strayWord (id : WordId)
  /-- Code 17 (R304). -/
  | bufferOverflow
deriving DecidableEq, Repr

/-- The code of a fatal error (R290). -/
def FatalError.code : FatalError → Nat
  | .invalidWord _ => 1
  | .ocbEnvelopeMismatch _ _ _ _ => 2
  | .nestedOcbHeader => 3
  | .truncatedStream _ => 4
  | .febTrailerWithoutHeader _ => 5
  | .febPacketEmpty => 6
  | .hitTagMismatch _ _ _ => 7
  | .trailerTagMismatch _ _ => 8
  | .trailerWithoutHeader => 9
  | .duplicateRisingEdge _ _ => 10
  | .fallingBeforeRising _ _ => 11
  | .duplicateGainLG _ => 12
  | .duplicateGainHG _ => 13
  | .febEnvelopeViolation => 14
  | .ocbEnvelopeViolation => 15
  | .strayWord _ => 16
  | .bufferOverflow => 17

/-- The warnings (R310), each with what it records; `index` is the word's index in the envelope (R311). -/
inductive Warning where
  /-- W_WORD_COUNT_MISMATCH, code 1 (R313). -/
  | wordCountMismatch (index : Nat) (reported : Nat) (counted : Nat)
  /-- W_INVALID_BOARD_ID, code 2 (R314). -/
  | invalidBoardId (index : Nat) (boardId : BoardId)
  /-- W_DUPLICATE_FEB, code 3 (R315). -/
  | duplicateFeb (index : Nat) (boardId : BoardId)
  /-- W_UNEXPECTED_WORD, code 4 (R316). -/
  | unexpectedWord (index : Nat) (id : WordId)
  /-- W_HIT_BLOCK_SIZE, code 5: a name only, no rule raises it (R317). -/
  | hitBlockSize
deriving DecidableEq, Repr

/-- The code of a warning (R310). -/
def Warning.code : Warning → Nat
  | .wordCountMismatch _ _ _ => 1
  | .invalidBoardId _ _ => 2
  | .duplicateFeb _ _ => 3
  | .unexpectedWord _ _ => 4
  | .hitBlockSize => 5

/-- The HitTime entry: one edge as a GTS Assembler run sees it (R32). -/
structure HitTimeEntry where
  boardId : BoardId
  channelId : ChannelId
  hitId : HitId
  edge : BitVec 1
  tagId : TagId
  hitTime : BitVec 13
  gtsTag : Option GtsTag
deriving DecidableEq, Repr

/-- The HitAmplitude entry: one sample as a GTS Assembler run sees it (R33). -/
structure HitAmplitudeEntry where
  boardId : BoardId
  channelId : ChannelId
  hitId : HitId
  tagId : TagId
  amplitudeId : BitVec 3
  amplitudeValue : BitVec 12
  gtsTag : Option GtsTag
deriving DecidableEq, Repr

/-- The merged HitTime record (R34). -/
structure MergedHitTime where
  channelId : ChannelId
  hitId : HitId
  riseTime : BitVec 13
  riseTagId : TagId
  riseGtsTag : Option GtsTag
  fallTime : Option (BitVec 13)
  fallTagId : Option TagId
  fallGtsTag : Option GtsTag
deriving DecidableEq, Repr

/-- The merged HitAmplitude record (R35). -/
structure MergedHitAmplitude where
  channelId : ChannelId
  lgAmplitude : Option (BitVec 12)
  lgTagId : Option TagId
  lgGtsTag : Option GtsTag
  hgAmplitude : Option (BitVec 12)
  hgTagId : Option TagId
  hgGtsTag : Option GtsTag
deriving DecidableEq, Repr

/-- The six trailer status items of a FEB packet: five one-bit flags and the 15-bit count (R36, R193). -/
structure TrailerStatus where
  artificialTrl2 : BitVec 1
  eventDoneTimeout : BitVec 1
  d1FifoFull : BitVec 1
  d0FifoFull : BitVec 1
  rbCntError : BitVec 1
  nbDecoderErrors : BitVec 15
deriving DecidableEq, Repr

/-- The FEBPacket: one board's contribution to one event (R36). -/
structure FEBPacket where
  boardId : BoardId
  holdTime : Option (BitVec 11)
  /-- The pairs (gts_tag, gts_time) in order of recording. -/
  gtsTimeMap : List (GtsTag × BitVec 20)
  hitTimes : List MergedHitTime
  hitAmplitudes : List MergedHitAmplitude
  status : TrailerStatus
deriving DecidableEq, Repr

/-- The OCBEvent: one gate (R37). -/
structure OCBEvent where
  eventNumber : BitVec 23
  gateType : BitVec 3
  gateTag : BitVec 2
  errors : BitVec 16
  febs : Vector (Option FEBPacket) Config.numFebsPerOcb
deriving DecidableEq, Repr

/-- A finite map of the GTS Assembler as a list of (key, value) pairs, keys strictly ascending (R30; log 11). -/
abbrev KeyMap (α : Type) := List (Nat × α)

/-- The working registers of the GTS Assembler (R30). -/
structure GARegs where
  timeMap : KeyMap MergedHitTime
  ampMap : KeyMap MergedHitAmplitude
  timeOut : List MergedHitTime
  ampOut : List MergedHitAmplitude
deriving DecidableEq, Repr

/-- GA's registers at the start of a run: "Both start empty" (R30, R54). -/
def GARegs.start : GARegs := { timeMap := [], ampMap := [], timeOut := [], ampOut := [] }

/-- The working registers of the FEB Assembler (R27 to R29). -/
structure FARegs where
  currentTag : Option GtsTag
  currentWords : List Instr
  previousTag : Option GtsTag
  previousWords : List Instr
  boardId : BoardId
  holdTime : Option (BitVec 11)
  gtsTimeMap : List (GtsTag × BitVec 20)
  hitTimes : List MergedHitTime
  hitAmplitudes : List MergedHitAmplitude
  status : TrailerStatus
deriving DecidableEq, Repr

/-- FA's registers at the start of a run (R27 to R29, R54).
DESIGN CHOICE, unsafe in name only (log 15): `boardId` and `status` have no stated start value and are zero here;
R191 and R193 write them before any read. -/
def FARegs.start : FARegs where
  currentTag := none
  currentWords := []
  previousTag := none
  previousWords := []
  boardId := 0#8
  holdTime := none
  gtsTimeMap := []
  hitTimes := []
  hitAmplitudes := []
  status := { artificialTrl2 := 0#1, eventDoneTimeout := 0#1, d1FifoFull := 0#1, d0FifoFull := 0#1,
              rbCntError := 0#1, nbDecoderErrors := 0#15 }

/-- An event with nine empty slots (R26, R54).
DESIGN CHOICE, unsafe in name only (log 15): the four envelope fields are zero until R231 and R232 write them. -/
def OCBEvent.start : OCBEvent where
  eventNumber := 0#23
  gateType := 0#3
  gateTag := 0#2
  errors := 0#16
  febs := Vector.replicate Config.numFebsPerOcb none

/-- The working registers of the OCB Assembler (R25, R26). -/
structure OARegs where
  /-- The walk index. -/
  i : Nat
  /-- The FEB-word counter. -/
  fwc : Nat
  /-- The GTS counter. -/
  gtsc : Nat
  /-- The index of the last type-0 GateHeader; `none` while no gate header has been opened. -/
  ghi : Option Nat
  /-- The board id recorded from that header. -/
  febBoard : BoardId
  /-- The event under construction. -/
  event : OCBEvent
  /-- The warnings raised during the run, in order of occurrence. -/
  warnings : List Warning
deriving DecidableEq, Repr

/-- OA's registers at the start of a run (R25, R26, R54). -/
def OARegs.start : OARegs :=
  { i := 1, fwc := 0, gtsc := 0, ghi := none, febBoard := 0#8, event := OCBEvent.start, warnings := [] }

/-- One input item (R11, R60). -/
inductive InputItem where
  /-- `Word(raw)`. -/
  | word (raw : Word)
  /-- `End`: the byte source is exhausted. -/
  | endOfStream
deriving DecidableEq, Repr

/-- The fault record (error, info, pos) (R23); the info is inside the error. -/
structure FaultRecord where
  error : FatalError
  pos : Nat
deriving DecidableEq, Repr

/-- One output item (R11, R24). -/
inductive OutItem where
  /-- `Event(ev, warnings)`. -/
  | event (ev : OCBEvent) (warnings : List Warning)
  /-- `Fault(error, info, pos)`. -/
  | fault (record : FaultRecord)
deriving DecidableEq, Repr

/-- The state of the machine (spec/10_state.md). -/
structure State where
  /-- The parameters of the step relation; no step changes them (R51; log 5). -/
  params : Params
  /-- The model's own field: the input items not consumed yet, next first (R53, R60; log 2). -/
  input : List InputItem
  /-- `SD.pos`, the stream position (R22). -/
  pos : Nat
  /-- `SD.buf`, the OCB buffer, as decoded words, each with its raw word (R20, R31, R80; log 6). -/
  buf : List Instr
  /-- `SD.inside_ocb` (R21). -/
  insideOcb : Bool
  /-- `SD.fault` (R23). -/
  fault : Option FaultRecord
  /-- The OCB Assembler's working registers (R25, R26; log 7). -/
  oa : OARegs
  /-- The FEB Assembler's working registers (R27 to R29; log 7). -/
  fa : FARegs
  /-- The GTS Assembler's working registers (R30; log 7). -/
  ga : GARegs
  /-- The output sequence `out` (R24). -/
  out : List OutItem
deriving DecidableEq, Repr

/-- Why the machine could stop. It has no constructor: every fatal error of the spec is taken as a next state (R277,
log 1), and no access leaves a store (R64), so nothing raises a stop. Safe. -/
inductive Fault where
deriving DecidableEq, Repr

/-- Why the model could give an instruction no meaning. -/
inductive Refusal where
  /-- Raised by an arm of `exec` whose instruction has no meaning yet; no arm does. Safe. -/
  | notModelled (mnemonic : String)
deriving DecidableEq, Repr

/-- The machine right after reset (R54, R340), no input supplied yet, the parameters at their defaults (R7). -/
def State.reset : State where
  params := Params.default
  input := []
  pos := 0
  buf := []
  insideOcb := false
  fault := none
  oa := OARegs.start
  fa := FARegs.start
  ga := GARegs.start
  out := []

end Sys2Proof.Machine
end

