-- ==== Sys2Proof/Machine/Ops.lean ====
section
/-! DEFINITION. The named operations over the stores and the state: reading, appending, slicing and walking word
lists (spec/20_memory.md), finite maps (spec/10_state.md R30), emitting, raising a fatal error, the shape of a word's
step, and the host's reset. -/

namespace Sys2Proof.Machine

/-! ### Word stores -/

/-- `MemRead(B, i)`: the word at index `i` of store `B`, defined for `0 <= i < len(B)` (R64). -/
def memRead (B : List Instr) (i : Nat) : Option Instr := B[i]?

/-- `append(B, v)`: places `v` at index `len(B)` (R65). -/
def append (B : List Instr) (v : Instr) : List Instr := B ++ [v]

/-- `B[g .. i]`, both ends inclusive (R9, R67). -/
def slice (B : List Instr) (g i : Nat) : List Instr := (B.drop g).take (i + 1 - g)

/-- The words at the indices 1 to n-2, what a walk covers (R194, R235). -/
def innerWords (B : List Instr) : List Instr := (B.drop 1).dropLast

/-- One pass over a list of words in order; the first failing word ends it (R169, R190, R230). -/
def walk {σ : Type} (visit : Instr → σ → Except FatalError σ) : List Instr → σ → Except FatalError σ
  | [], r => .ok r
  | w :: ws, r =>
    match visit w r with
    | .ok r' => walk visit ws r'
    | .error e => .error e

/-! ### Finite maps -/

/-- The value at a key. -/
def KeyMap.find {α : Type} (k : Nat) : KeyMap α → Option α
  | [] => none
  | (k', v) :: m => if k = k' then some v else KeyMap.find k m

/-- The map with `v` at `k`, whatever stood there; the keys stay ascending. -/
def KeyMap.insert {α : Type} (k : Nat) (v : α) : KeyMap α → KeyMap α
  | [] => [(k, v)]
  | (k', v') :: m =>
    if k < k' then (k, v) :: (k', v') :: m
    else if k = k' then (k, v) :: m
    else (k', v') :: KeyMap.insert k v m

/-- The map without the key `k`. -/
def KeyMap.erase {α : Type} (k : Nat) : KeyMap α → KeyMap α
  | [] => []
  | (k', v) :: m => if k = k' then m else (k', v) :: KeyMap.erase k m

/-- The values, ascending by key (R168). -/
def KeyMap.values {α : Type} (m : KeyMap α) : List α := m.map Prod.snd

/-! ### The Stream Driver's state -/

/-- The item a step consumes next, if the host has supplied one (R11, R280). -/
def State.nextItem (s : State) : Option InputItem := s.input.head?

/-- One step consumes one item (R11). -/
def State.consume (s : State) : State := { s with input := s.input.tail }

/-- The state with an item as the very next one to consume, in the place of the one that stood there. -/
def State.withNextItem (s : State) (item : InputItem) : State := { s with input := item :: s.input.tail }

/-- `emit x` (R10, R24). -/
def State.emit (s : State) (x : OutItem) : State := { s with out := s.out ++ [x] }

/-- `pos <- pos + 1` (R22, R279). -/
def State.advance (s : State) : State := { s with pos := s.pos + 1 }

/-- An append to `SD.buf` would go beyond a finite `MAX_OCB_WORDS` (R70; log 8). -/
def State.bufFull (s : State) : Bool :=
  match s.params.maxOcbWords with
  | none => false
  | some limit => decide (limit ≤ s.buf.length)

/-- `append(SD.buf, w)` with its capacity test (R66, R70). -/
def State.bufAppend (s : State) (w : Instr) : Except FatalError State :=
  if s.bufFull then .error .bufferOverflow else .ok { s with buf := append s.buf w }

/-- OA's, FA's and GA's registers as at the start of a run: nothing of a run survives it (R25, R29, R30; log 7). -/
def State.endRuns (s : State) : State := { s with oa := OARegs.start, fa := FARegs.start, ga := GARegs.start }

/-- Taking a fatal error: the state after a step that raises `e`, from the state before its other effects (R277,
R305). The fault record is set at the current position, one Fault item is emitted, the buffer and `inside_ocb` are
cleared, `pos` stays. -/
def State.raise (s : State) (e : FatalError) : State :=
  { (s.emit (.fault { error := e, pos := s.pos })).endRuns with
    fault := some { error := e, pos := s.pos }
    buf := []
    insideOcb := false }

/-- The way out of the faulted state: the host's reset, "followed by a new run on the rest of the stream" (R307,
R340). DESIGN CHOICE, safe (log 16): the parameters and the items not consumed yet are the host's and stay. -/
def State.hostReset (s : State) : State := { State.reset with params := s.params, input := s.input }

/-- The step on a `Word` item whose kind's rule is `rule` (R270): nothing happens in the faulted state; an error of
the rule is taken with the rule's other effects undone (R277); else the position advances (R279). -/
def wordStep (rule : State → Except FatalError State) (s : State) : Host.Outcome State Fault Refusal :=
  if s.fault.isSome then .next s.consume
  else
    match rule s.consume with
    | .ok s' => .next s'.advance
    | .error e => .next (s.consume.raise e)

/-- The step on the `End` item (R276): TruncatedStream inside an envelope, else no state change. -/
def endStep (s : State) : Host.Outcome State Fault Refusal :=
  if s.fault.isSome then .next s.consume
  else if s.insideOcb then .next (s.consume.raise (.truncatedStream s.buf.length))
  else .next s.consume

end Sys2Proof.Machine
end

