-- ==== Sys2Proof/Machine/Operands.lean ====
section
/-! DEFINITION. What a unit reads of a decoded word: the operands of spec/41_gts_assembler.md,
spec/42_feb_assembler.md and spec/43_ocb_assembler.md, and the tag comparison of R197. -/

namespace Sys2Proof.Machine

/-- `matches(tag_id, T)`: false for an unset tag, else `tag_id = (t & 3)` (R197). -/
def tagMatches (tagId : TagId) : Option GtsTag → Bool
  | none => false
  | some t => tagId == t.setWidth 2

/-- The `board_id` of a GateHeader of either type (R191). -/
def gateHeaderBoard : Instr → Option BoardId
  | .gateHeaderType0 boardId _ _ => some boardId
  | .gateHeaderType1 boardId _ _ => some boardId
  | _ => none

/-- The word is a GateHeader of `header_type = 1`, what R240 looks ahead for. -/
def isGateHeaderType1 : Instr → Bool
  | .gateHeaderType1 _ _ _ => true
  | _ => false

/-- The `hold_time` of a HoldTime word (R192). -/
def holdTimeValue : Instr → Option (BitVec 11)
  | .holdTime _ _ time _ => some time
  | _ => none

/-- The six status items of a FEBDataPacketTrailer (R193). -/
def trailerStatus : Instr → Option TrailerStatus
  | .febDataPacketTrailer _ artificialTrl2 eventDoneTimeout d1FifoFull d0FifoFull rbCntError nbDecoderErrors =>
      some { artificialTrl2, eventDoneTimeout, d1FifoFull, d0FifoFull, rbCntError, nbDecoderErrors }
  | _ => none

/-- The `tag_id` of a hit word, HitTime or HitAmplitude (R196). -/
def hitTagId : Instr → Option TagId
  | .hitTime _ _ tagId _ _ _ => some tagId
  | .hitAmplitude _ _ tagId _ _ => some tagId
  | _ => none

/-- The HitTime entry of a word in a run with operands `board` and `tag` (R32, R161); none for other kinds. -/
def hitTimeEntry (board : BoardId) (tag : Option GtsTag) : Instr → Option HitTimeEntry
  | .hitTime channelId hitId tagId edge time _ =>
      some { boardId := board, channelId, hitId, edge, tagId, hitTime := time, gtsTag := tag }
  | _ => none

/-- The HitAmplitude entry of a word in a run with operands `board` and `tag` (R33, R161); none for other kinds. -/
def hitAmplitudeEntry (board : BoardId) (tag : Option GtsTag) : Instr → Option HitAmplitudeEntry
  | .hitAmplitude channelId hitId tagId amplitudeId amplitudeValue =>
      some { boardId := board, channelId, hitId, tagId, amplitudeId, amplitudeValue, gtsTag := tag }
  | _ => none

/-- The key (channel_id, hit_id) as a number that orders keys by channel_id first, then hit_id (R162, R168; log 11). -/
def timeKey (channelId : ChannelId) (hitId : HitId) : Nat := channelId.toNat * 8 + hitId.toNat

/-- The gain is high when `amplitude_id = 2` and low for every other value (R112, R166). -/
def isHighGain (amplitudeId : BitVec 3) : Bool := amplitudeId == 2#3

end Sys2Proof.Machine
end

