-- ==== Sys2Proof/Machine/Flags.lean ====
section
/-! DEFINITION. The one-bit data and the read-only views of the consumer interface. The block has no condition codes
(spec/10_state.md R39): every flag is copied into the output and no rule tests it. -/

namespace Sys2Proof.Machine

/-- The condition that a bit of `errors` names (R117). -/
inductive TrailerErrorBit where
  /-- Bits 0..13: the per-FEB error of FEB `k`. -/
  | febError (k : Fin 14)
  /-- Bit 14. -/
  | gateCloseError
  /-- Bit 15. -/
  | gateOpenTimeout
deriving DecidableEq, Repr

/-- "bits 0..13 = FEB-0..13 errors; bit 14 = gate close error; bit 15 = gate open timeout" (R117). -/
def trailerErrorBit (k : Fin 16) : TrailerErrorBit :=
  if h : k.val < 14 then .febError ⟨k.val, h⟩ else if k.val = 14 then .gateCloseError else .gateOpenTimeout

/-- The label of a condition. The one label string in the source is that of bit 15 (R233; log 17). -/
def TrailerErrorBit.label : TrailerErrorBit → Option String
  | .febError _ => none
  | .gateCloseError => none
  | .gateOpenTimeout => some "Gate open timeout"

/-- `errors[k]`: bit `k` of the event's error bitmap (R37). -/
def OCBEvent.errorBit (ev : OCBEvent) (k : Fin 16) : Bool := ev.errors.getLsbD k.val

/-- The conditions whose bits are set, in order of the bits (R117). -/
def OCBEvent.errorConditions (ev : OCBEvent) : List TrailerErrorBit :=
  ((List.finRange 16).filter ev.errorBit).map trailerErrorBit

/-- The packet in slot `b`; none for an empty slot and for a number that names no slot (R37). -/
def OCBEvent.slot (ev : OCBEvent) (b : Nat) : Option FEBPacket := (ev.febs[b]?).join

/-- The event with slot `b` filled (R250). -/
def OCBEvent.fill (ev : OCBEvent) (b : Nat) (p : FEBPacket) : OCBEvent :=
  { ev with febs := ev.febs.setIfInBounds b (some p) }

/-- `fired_feb_count`: the number of slots that are not `none` (R37). -/
def OCBEvent.firedFebCount (ev : OCBEvent) : Nat := ev.febs.toList.countP Option.isSome

/-- `lookup(tag)`: the `gts_time` of the last pair with that tag (R36). -/
def FEBPacket.lookup (p : FEBPacket) (tag : GtsTag) : Option (BitVec 20) :=
  (p.gtsTimeMap.reverse.find? (fun pair => pair.1 == tag)).map Prod.snd

/-- The envelope index a warning records (R311). -/
def Warning.index : Warning → Option Nat
  | .wordCountMismatch index _ _ => some index
  | .invalidBoardId index _ => some index
  | .duplicateFeb index _ => some index
  | .unexpectedWord index _ => some index
  | .hitBlockSize => none

/-- The stream position of the word at `index` of an envelope of `n` words whose trailer stands at position `p`:
`p - (n - 1) + index` (R311). -/
def warningStreamPos (p n index : Nat) : Nat := p - (n - 1) + index

end Sys2Proof.Machine
end

