-- ==== Sys2Proof/Machine/Gts.lean ====
section
/-! DEFINITION. The GTS Assembler: edge pairing and gain matching within one interval (spec/41_gts_assembler.md). -/

namespace Sys2Proof.Machine

/-- The merged record a rising edge creates (R163). -/
def risingRecord (e : HitTimeEntry) : MergedHitTime :=
  { channelId := e.channelId, hitId := e.hitId, riseTime := e.hitTime, riseTagId := e.tagId, riseGtsTag := e.gtsTag,
    fallTime := none, fallTagId := none, fallGtsTag := none }

/-- The record with the fall fields set (R164). -/
def MergedHitTime.complete (m : MergedHitTime) (e : HitTimeEntry) : MergedHitTime :=
  { m with fallTime := some e.hitTime, fallTagId := some e.tagId, fallGtsTag := e.gtsTag }

/-- HitTime, rising edge (R163). -/
def gaRise (e : HitTimeEntry) (r : GARegs) : Except FatalError GARegs :=
  match KeyMap.find (timeKey e.channelId e.hitId) r.timeMap with
  | some _ => .error (.duplicateRisingEdge e.channelId e.hitId)
  | none => .ok { r with timeMap := KeyMap.insert (timeKey e.channelId e.hitId) (risingRecord e) r.timeMap }

/-- HitTime, falling edge (R164). -/
def gaFall (e : HitTimeEntry) (r : GARegs) : Except FatalError GARegs :=
  match KeyMap.find (timeKey e.channelId e.hitId) r.timeMap with
  | none => .error (.fallingBeforeRising e.channelId e.hitId)
  | some m =>
    .ok { r with
      timeMap := KeyMap.erase (timeKey e.channelId e.hitId) r.timeMap
      timeOut := r.timeOut ++ [m.complete e] }

/-- HitTime: dispatch on `edge` (R162). -/
def gaHitTime (e : HitTimeEntry) (r : GARegs) : Except FatalError GARegs :=
  if e.edge = 0#1 then gaRise e r else gaFall e r

/-- The merged amplitude record of a channel with no sample yet (R166). -/
def MergedHitAmplitude.blank (c : ChannelId) : MergedHitAmplitude :=
  { channelId := c, lgAmplitude := none, lgTagId := none, lgGtsTag := none,
    hgAmplitude := none, hgTagId := none, hgGtsTag := none }

/-- The channel's record so far, or a blank one (R166: insert-or-find). -/
def ampRecord (c : ChannelId) (r : GARegs) : MergedHitAmplitude :=
  (KeyMap.find c.toNat r.ampMap).getD (MergedHitAmplitude.blank c)

/-- HitAmplitude of high gain (R166). -/
def gaHighGain (e : HitAmplitudeEntry) (r : GARegs) : Except FatalError GARegs :=
  if (ampRecord e.channelId r).hgAmplitude.isSome then .error (.duplicateGainHG e.channelId)
  else
    .ok { r with
      ampMap := KeyMap.insert e.channelId.toNat
        { ampRecord e.channelId r with
          hgAmplitude := some e.amplitudeValue, hgTagId := some e.tagId, hgGtsTag := e.gtsTag } r.ampMap }

/-- HitAmplitude of low gain (R166). -/
def gaLowGain (e : HitAmplitudeEntry) (r : GARegs) : Except FatalError GARegs :=
  if (ampRecord e.channelId r).lgAmplitude.isSome then .error (.duplicateGainLG e.channelId)
  else
    .ok { r with
      ampMap := KeyMap.insert e.channelId.toNat
        { ampRecord e.channelId r with
          lgAmplitude := some e.amplitudeValue, lgTagId := some e.tagId, lgGtsTag := e.gtsTag } r.ampMap }

/-- HitAmplitude: dispatch on the gain (R166). -/
def gaHitAmplitude (e : HitAmplitudeEntry) (r : GARegs) : Except FatalError GARegs :=
  if isHighGain e.amplitudeId then gaHighGain e r else gaLowGain e r

/-- A word in the first pass: HitTime words only, every other kind is skipped (R160, R167, R169). -/
def gaTimeVisit (board : BoardId) (tag : Option GtsTag) (w : Instr) (r : GARegs) : Except FatalError GARegs :=
  match hitTimeEntry board tag w with
  | some e => gaHitTime e r
  | none => .ok r

/-- A word in the second pass: HitAmplitude words only, every other kind is skipped (R160, R167, R169). -/
def gaAmpVisit (board : BoardId) (tag : Option GtsTag) (w : Instr) (r : GARegs) : Except FatalError GARegs :=
  match hitAmplitudeEntry board tag w with
  | some e => gaHitAmplitude e r
  | none => .ok r

/-- End of block: the incomplete time records, then the amplitude records, in ascending key order (R168). -/
def gaFinish (r : GARegs) : GARegs :=
  { r with timeOut := r.timeOut ++ KeyMap.values r.timeMap, ampOut := r.ampOut ++ KeyMap.values r.ampMap }

/-- The run of the GTS Assembler on its registers (R160): two passes, then the end of the block. -/
def gtsRun (board : BoardId) (tag : Option GtsTag) (block : List Instr) : Except FatalError GARegs :=
  match walk (gaTimeVisit board tag) block GARegs.start with
  | .error e => .error e
  | .ok r =>
    match walk (gaAmpVisit board tag) block r with
    | .error e => .error e
    | .ok r' => .ok (gaFinish r')

/-- `gts_assemble(board, tag, block)`: the pair `(time_out, amp_out)` or a fatal error (R160). -/
def gtsAssemble (board : BoardId) (tag : Option GtsTag) (block : List Instr) :
    Except FatalError (List MergedHitTime × List MergedHitAmplitude) :=
  match gtsRun board tag block with
  | .error e => .error e
  | .ok r => .ok (r.timeOut, r.ampOut)

end Sys2Proof.Machine
end

