-- ==== Sys2Proof/Machine/Feb.lean ====
section
/-! DEFINITION. The FEB Assembler: current and previous window, tag routing, flushes (spec/42_feb_assembler.md). -/

namespace Sys2Proof.Machine

/-- `flush(T, W)`: nothing for an empty window, else a GTS Assembler run whose outputs are appended (R204). -/
def faFlush (tag : Option GtsTag) (words : List Instr) (r : FARegs) : Except FatalError FARegs :=
  if words = [] then .ok r
  else
    match gtsAssemble r.boardId tag words with
    | .error e => .error e
    | .ok (tOut, aOut) =>
      .ok { r with hitTimes := r.hitTimes ++ tOut, hitAmplitudes := r.hitAmplitudes ++ aOut }

/-- GTSHeader: append to the current window and set its tag (R195). -/
def faGtsHeader (gtsTag : GtsTag) (r : FARegs) : Except FatalError FARegs :=
  .ok { r with currentWords := append r.currentWords (.gtsHeader gtsTag), currentTag := some gtsTag }

/-- Routing of a hit word `w` by its `tag_id`: current window first, then previous, else HitTagMismatch (R196). -/
def faRoute (w : Instr) (tagId : TagId) (r : FARegs) : Except FatalError FARegs :=
  if tagMatches tagId r.currentTag then .ok { r with currentWords := append r.currentWords w }
  else if tagMatches tagId r.previousTag then .ok { r with previousWords := append r.previousWords w }
  else .error (.hitTagMismatch tagId r.currentTag r.previousTag)

/-- HitTime met in the walk (R196). -/
def faHitTime (channelId : ChannelId) (hitId : HitId) (tagId : TagId) (edge : BitVec 1) (time : BitVec 13)
    (unused : BitVec 1) (r : FARegs) : Except FatalError FARegs :=
  faRoute (.hitTime channelId hitId tagId edge time unused) tagId r

/-- HitAmplitude met in the walk (R196). -/
def faHitAmplitude (channelId : ChannelId) (hitId : HitId) (tagId : TagId) (amplitudeId : BitVec 3)
    (amplitudeValue : BitVec 12) (r : FARegs) : Except FatalError FARegs :=
  faRoute (.hitAmplitude channelId hitId tagId amplitudeId amplitudeValue) tagId r

/-- GTSTrailer1: all 28 bits of the tag must be the current tag's (R199). -/
def faGtsTrailer1 (gtsTag : GtsTag) (r : FARegs) : Except FatalError FARegs :=
  if r.currentTag = some gtsTag then .ok { r with currentWords := append r.currentWords (.gtsTrailer1 gtsTag) }
  else .error (.trailerTagMismatch gtsTag r.currentTag)

/-- `append(FA.gts_time_map, (value of FA.current_tag, gts_time))` (R203). The tag is set whenever R203 gets here
(R203 corner case b, R212); with no tag, which no run reaches, there is no pair to record (log 18). -/
def faRecordTime (gtsTime : BitVec 20) (r : FARegs) : FARegs :=
  match r.currentTag with
  | some t => { r with gtsTimeMap := r.gtsTimeMap ++ [(t, gtsTime)] }
  | none => r

/-- The shift of R203: current becomes previous, current is cleared, its tag as well as its words. -/
def faShift (r : FARegs) : FARegs :=
  { r with previousWords := r.currentWords, previousTag := r.currentTag, currentWords := [], currentTag := none }

/-- GTSTrailer2 `w`: append, record the time, flush the previous window, shift (R203). -/
def faGtsTrailer2 (w : Instr) (gtsTime : BitVec 20) (r : FARegs) : Except FatalError FARegs :=
  if r.currentWords = [] then .error .trailerWithoutHeader
  else
    match faFlush r.previousTag r.previousWords
        (faRecordTime gtsTime { r with currentWords := append r.currentWords w }) with
    | .error e => .error e
    | .ok r' => .ok (faShift r')

/-- GateTime: no state change (R205). -/
def faGateTime (r : FARegs) : Except FatalError FARegs := .ok r

/-- HoldTime met in the walk: no state change (R206). -/
def faHoldTime (r : FARegs) : Except FatalError FARegs := .ok r

/-- GateHeader met in the walk: no state change (R207). -/
def faGateHeader (r : FARegs) : Except FatalError FARegs := .ok r

/-- Every other kind met in the walk: no state change (R208). -/
def faOther (r : FARegs) : Except FatalError FARegs := .ok r

/-- The rule of a word's kind in the FEB Assembler's walk (R190). The reserved id, which no decoded word has (R148),
falls under "every other kind" (log 9). -/
def faVisit (w : Instr) (r : FARegs) : Except FatalError FARegs :=
  match w with
  | .gateHeaderType0 _ _ _ => faGateHeader r
  | .gateHeaderType1 _ _ _ => faGateHeader r
  | .gtsHeader gtsTag => faGtsHeader gtsTag r
  | .hitTime channelId hitId tagId edge time unused => faHitTime channelId hitId tagId edge time unused r
  | .hitAmplitude channelId hitId tagId amplitudeId amplitudeValue =>
      faHitAmplitude channelId hitId tagId amplitudeId amplitudeValue r
  | .gtsTrailer1 gtsTag => faGtsTrailer1 gtsTag r
  | .gtsTrailer2 data ocbBusy febBusy gtsTime unused =>
      faGtsTrailer2 (.gtsTrailer2 data ocbBusy febBusy gtsTime unused) gtsTime r
  | .gateTrailer _ _ _ _ => faOther r
  | .gateTime _ => faGateTime r
  | .ocbPacketHeader _ _ _ => faOther r
  | .ocbPacketTrailer _ _ _ _ => faOther r
  | .reserved0xA _ => faOther r
  | .holdTime _ _ _ _ => faHoldTime r
  | .eventDone _ _ _ => faOther r
  | .febDataPacketTrailer _ _ _ _ _ _ _ => faOther r
  | .housekeeping _ => faOther r
  | .special _ => faOther r

/-- Second word: the HoldTime at index 1, if `n >= 3` and index 1 holds one (R192). -/
def capturedHoldTime (S : List Instr) : Option (BitVec 11) :=
  if 3 ≤ S.length then (memRead S 1).bind holdTimeValue else none

/-- The registers when the walk begins: first, second and last word captured (R191 to R193, R190). -/
def faBegin (board : BoardId) (status : TrailerStatus) (S : List Instr) : FARegs :=
  { FARegs.start with boardId := board, holdTime := capturedHoldTime S, status := status }

/-- End of slice: flush previous, then current (R211). -/
def faEnd (r : FARegs) : Except FatalError FARegs :=
  match faFlush r.previousTag r.previousWords r with
  | .error e => .error e
  | .ok r' => faFlush r.currentTag r.currentWords r'

/-- The FEBPacket of the registers (R214). -/
def FARegs.packet (r : FARegs) : FEBPacket :=
  { boardId := r.boardId, holdTime := r.holdTime, gtsTimeMap := r.gtsTimeMap, hitTimes := r.hitTimes,
    hitAmplitudes := r.hitAmplitudes, status := r.status }

/-- The walk and the end of a slice from its beginning registers (R190). -/
def febRun (board : BoardId) (status : TrailerStatus) (S : List Instr) : Except FatalError FARegs :=
  match walk faVisit (innerWords S) (faBegin board status S) with
  | .error e => .error e
  | .ok r => faEnd r

/-- `feb_assemble(S)`: contract check (R217), then the run, then the packet (R190, R214). -/
def febAssemble (S : List Instr) : Except FatalError FEBPacket :=
  if S = [] then .error .febPacketEmpty
  else
    match S.head?.bind gateHeaderBoard, S.getLast?.bind trailerStatus with
    | some board, some status =>
      match febRun board status S with
      | .error e => .error e
      | .ok r => .ok r.packet
    | _, _ => .error .febEnvelopeViolation

end Sys2Proof.Machine
end

