-- ==== Sys2Proof/Machine/Ocb.lean ====
section
/-! DEFINITION. The OCB Assembler: envelope check, word accounting, FEB slicing (spec/43_ocb_assembler.md). -/

namespace Sys2Proof.Machine

/-- `warn W(info)`: appends to `OA.warnings` and changes nothing else (R312). -/
def OARegs.warn (r : OARegs) (w : Warning) : OARegs := { r with warnings := r.warnings ++ [w] }

/-- `OA.fwc <- OA.fwc + 1`. -/
def OARegs.count (r : OARegs) : OARegs := { r with fwc := r.fwc + 1 }

/-- `count_if_event()`: count only when the GTS counter exceeds the threshold (R244). -/
def OARegs.countIfEvent (r : OARegs) : OARegs :=
  if r.gtsc > Config.numGtsBeforeEvent then r.count else r

/-- GateHeader of type 0: reset the counters, record index and board, look ahead (R240). -/
def oaGateHeaderType0 (B : List Instr) (boardId : BoardId) (r : OARegs) : OARegs :=
  { r with
    fwc := if (memRead B (r.i + 1)).any isGateHeaderType1 then 1 else 0
    gtsc := 0
    ghi := some r.i
    febBoard := boardId }

/-- GateHeader of type 1 (R241). -/
def oaGateHeaderType1 (r : OARegs) : OARegs := r.count

/-- GateTime (R242). -/
def oaGateTime (r : OARegs) : OARegs := r.count

/-- HoldTime (R245). -/
def oaHoldTime (r : OARegs) : OARegs := r.count

/-- GTSHeader: increment the GTS counter first, then test it (R243). -/
def oaGtsHeader (r : OARegs) : OARegs := { r with gtsc := r.gtsc + 1 }.countIfEvent

/-- GTSTrailer1 (R254). -/
def oaGtsTrailer1 (r : OARegs) : OARegs := r.countIfEvent

/-- GTSTrailer2 (R255). -/
def oaGtsTrailer2 (r : OARegs) : OARegs := r.countIfEvent

/-- HitTime (R256). -/
def oaHitTime (r : OARegs) : OARegs := r.countIfEvent

/-- HitAmplitude (R257). -/
def oaHitAmplitude (r : OARegs) : OARegs := r.countIfEvent

/-- EventDone: compare, never count (R246). -/
def oaEventDone (wordCount : BitVec 16) (r : OARegs) : OARegs :=
  if wordCount.toNat = r.fwc then r else r.warn (.wordCountMismatch r.i wordCount.toNat r.fwc)

/-- The part of R250 after the count and the header test: board id test, slot test, assembly. -/
def oaPlace (B : List Instr) (g : Nat) (r : OARegs) : Except FatalError OARegs :=
  if Config.numFebsPerOcb ≤ r.febBoard.toNat then .ok (r.warn (.invalidBoardId r.i r.febBoard))
  else if (r.event.slot r.febBoard.toNat).isSome then .ok (r.warn (.duplicateFeb r.i r.febBoard))
  else
    match febAssemble (slice B g r.i) with
    | .error e => .error e
    | .ok p => .ok { r with event := r.event.fill r.febBoard.toNat p }

/-- FEBDataPacketTrailer (R250). -/
def oaFebTrailer (B : List Instr) (r : OARegs) : Except FatalError OARegs :=
  match r.ghi with
  | none => .error (.febTrailerWithoutHeader r.i)
  | some g => oaPlace B g r.count

/-- Every other kind: warn W_UNEXPECTED_WORD with the word id (R249). -/
def oaUnexpected (w : Instr) (r : OARegs) : OARegs := r.warn (.unexpectedWord r.i w.wordId)

/-- The rule of a word's kind in the OCB Assembler's walk (R230). The reserved id, which no buffered word has (R148),
falls under "every other kind" (log 9). -/
def oaRule (B : List Instr) (w : Instr) (r : OARegs) : Except FatalError OARegs :=
  match w with
  | .gateHeaderType0 boardId _ _ => .ok (oaGateHeaderType0 B boardId r)
  | .gateHeaderType1 _ _ _ => .ok (oaGateHeaderType1 r)
  | .gtsHeader _ => .ok (oaGtsHeader r)
  | .hitTime _ _ _ _ _ _ => .ok (oaHitTime r)
  | .hitAmplitude _ _ _ _ _ => .ok (oaHitAmplitude r)
  | .gtsTrailer1 _ => .ok (oaGtsTrailer1 r)
  | .gtsTrailer2 _ _ _ _ _ => .ok (oaGtsTrailer2 r)
  | .gateTrailer _ _ _ _ => .ok (oaUnexpected w r)
  | .gateTime _ => .ok (oaGateTime r)
  | .ocbPacketHeader _ _ _ => .ok (oaUnexpected w r)
  | .ocbPacketTrailer _ _ _ _ => .ok (oaUnexpected w r)
  | .reserved0xA _ => .ok (oaUnexpected w r)
  | .holdTime _ _ _ _ => .ok (oaHoldTime r)
  | .eventDone _ _ wordCount => .ok (oaEventDone wordCount r)
  | .febDataPacketTrailer _ _ _ _ _ _ _ => oaFebTrailer B r
  | .housekeeping _ => .ok (oaUnexpected w r)
  | .special _ => .ok (oaUnexpected w r)

/-- One word of the walk: its rule at index `OA.i`, then the next index (R230, R235). -/
def oaVisit (B : List Instr) (w : Instr) (r : OARegs) : Except FatalError OARegs :=
  match oaRule B w r with
  | .error e => .error e
  | .ok r' => .ok { r' with i := r'.i + 1 }

/-- The registers when the walk begins: the envelope fields of R231 and R232, all else as at the start of a run. -/
def oaBegin (gateType : BitVec 3) (gateTag : BitVec 2) (eventNumber : BitVec 23) (errors : BitVec 16) : OARegs :=
  { OARegs.start with event := { OCBEvent.start with eventNumber, gateType, gateTag, errors } }

/-- The run of the OCB Assembler on its registers (R230): contract check (R234), envelope check (R231), trailer
errors (R232), walk. -/
def ocbRun (B : List Instr) : Except FatalError OARegs :=
  match B.head?, B.getLast? with
  | some (.ocbPacketHeader hType hTag eventNumber), some (.ocbPacketTrailer tType tTag errors _) =>
    if hType = tType ∧ hTag = tTag then walk (oaVisit B) (innerWords B) (oaBegin hType hTag eventNumber errors)
    else .error (.ocbEnvelopeMismatch hType hTag tType tTag)
  | _, _ => .error .ocbEnvelopeViolation

/-- `ocb_assemble(B)`: the pair `(event, warnings)` or a fatal error (R230, R258). -/
def ocbAssemble (B : List Instr) : Except FatalError (OCBEvent × List Warning) :=
  match ocbRun B with
  | .error e => .error e
  | .ok r => .ok (r.event, r.warnings)

end Sys2Proof.Machine
end

