-- ==== Sys2Proof/Machine/Stream.lean ====
section
/-! DEFINITION. The Stream Driver: what the step of a word of each kind does (spec/44_stream_driver.md), one
meaning for each row of spec/opcode_table.json. -/

namespace Sys2Proof.Machine

/-- A stray word, one outside an envelope that is not an OCBPacketHeader (R275). -/
def sdStray (w : Instr) (s : State) : Except FatalError State :=
  match s.params.strayPolicy with
  | .discard => .ok s
  | .fault => .error (.strayWord w.wordId)

/-- OCBPacketHeader: NestedOcbHeader inside an envelope, else open one (R272). -/
def sdOpen (w : Instr) (s : State) : Except FatalError State :=
  if s.insideOcb then .error .nestedOcbHeader
  else { s with buf := [], insideOcb := true }.bufAppend w

/-- Any kind other than OCBPacketHeader and OCBPacketTrailer: append inside an envelope (R273), stray outside
(R275). -/
def sdInner (w : Instr) (s : State) : Except FatalError State :=
  if s.insideOcb then s.bufAppend w else sdStray w s

/-- The state after the envelope in `SD.buf` gave its event: emit, clear flag and buffer (R274). -/
def State.closeEnvelope (s : State) (ev : OCBEvent) (warnings : List Warning) : State :=
  { (s.emit (.event ev warnings)).endRuns with insideOcb := false, buf := [] }

/-- OCBPacketTrailer: inside an envelope append, assemble, emit, clear (R274); stray outside (R275). -/
def sdClose (w : Instr) (s : State) : Except FatalError State :=
  if s.insideOcb then
    match s.bufAppend w with
    | .error e => .error e
    | .ok s' =>
      match ocbAssemble s'.buf with
      | .error e => .error e
      | .ok (ev, warnings) => .ok (s'.closeEnvelope ev warnings)
  else sdStray w s

/-- A word of the reserved id: decoding at ingestion fails with InvalidWord, inside or outside an envelope (R141,
R271). -/
def sdInvalid (id : WordId) (_s : State) : Except FatalError State := .error (.invalidWord id)

/-! ### The meanings

The payload bits that a layout leaves out go, after the state, into the word that is buffered, and decide nothing
(R109). -/

/-- GateHeader.type0. -/
def execGateHeaderType0 (boardId : BoardId) (gateType : BitVec 3) (gateNumber : BitVec 16) (s : State) :
    Host.Outcome State Fault Refusal :=
  wordStep (sdInner (.gateHeaderType0 boardId gateType gateNumber)) s

/-- GateHeader.type1. -/
def execGateHeaderType1 (boardId : BoardId) (gateTimeFromGts : BitVec 11) (s : State) (unused : BitVec 8 := 0#8) :
    Host.Outcome State Fault Refusal :=
  wordStep (sdInner (.gateHeaderType1 boardId gateTimeFromGts unused)) s

/-- GTSHeader. -/
def execGtsHeader (gtsTag : GtsTag) (s : State) : Host.Outcome State Fault Refusal :=
  wordStep (sdInner (.gtsHeader gtsTag)) s

/-- HitTime. -/
def execHitTime (channelId : ChannelId) (hitId : HitId) (tagId : TagId) (edge : BitVec 1) (time : BitVec 13)
    (s : State) (unused : BitVec 1 := 0#1) : Host.Outcome State Fault Refusal :=
  wordStep (sdInner (.hitTime channelId hitId tagId edge time unused)) s

/-- HitAmplitude. -/
def execHitAmplitude (channelId : ChannelId) (hitId : HitId) (tagId : TagId) (amplitudeId : BitVec 3)
    (amplitudeValue : BitVec 12) (s : State) : Host.Outcome State Fault Refusal :=
  wordStep (sdInner (.hitAmplitude channelId hitId tagId amplitudeId amplitudeValue)) s

/-- GTSTrailer1. -/
def execGtsTrailer1 (gtsTag : GtsTag) (s : State) : Host.Outcome State Fault Refusal :=
  wordStep (sdInner (.gtsTrailer1 gtsTag)) s

/-- GTSTrailer2. -/
def execGtsTrailer2 (data ocbBusy febBusy : BitVec 1) (gtsTime : BitVec 20) (s : State) (unused : BitVec 5 := 0#5) :
    Host.Outcome State Fault Refusal :=
  wordStep (sdInner (.gtsTrailer2 data ocbBusy febBusy gtsTime unused)) s

/-- GateTrailer. -/
def execGateTrailer (boardId : BoardId) (gateType : BitVec 3) (gateNumber : BitVec 16)
    (s : State) (unused : BitVec 1 := 0#1) : Host.Outcome State Fault Refusal :=
  wordStep (sdInner (.gateTrailer boardId gateType gateNumber unused)) s

/-- GateTime. -/
def execGateTime (time : BitVec 28) (s : State) : Host.Outcome State Fault Refusal :=
  wordStep (sdInner (.gateTime time)) s

/-- OCBPacketHeader. -/
def execOcbPacketHeader (gateType : BitVec 3) (gateTag : BitVec 2) (eventNumber : BitVec 23) (s : State) :
    Host.Outcome State Fault Refusal :=
  wordStep (sdOpen (.ocbPacketHeader gateType gateTag eventNumber)) s

/-- OCBPacketTrailer. -/
def execOcbPacketTrailer (gateType : BitVec 3) (gateTag : BitVec 2) (errors : BitVec 16)
    (s : State) (unused : BitVec 7 := 0#7) : Host.Outcome State Fault Refusal :=
  wordStep (sdClose (.ocbPacketTrailer gateType gateTag errors unused)) s

/-- Reserved.0xA. -/
def execReserved0xA (s : State) (payload : BitVec 28 := 0#28) : Host.Outcome State Fault Refusal :=
  wordStep (sdInvalid (Instr.wordId (.reserved0xA payload))) s

/-- HoldTime. -/
def execHoldTime (boardId : BoardId) (headerType : BitVec 1) (time : BitVec 11) (s : State) (unused : BitVec 8 := 0#8) :
    Host.Outcome State Fault Refusal :=
  wordStep (sdInner (.holdTime boardId headerType time unused)) s

/-- EventDone. -/
def execEventDone (boardId : BoardId) (gateNumber : BitVec 4) (wordCount : BitVec 16) (s : State) :
    Host.Outcome State Fault Refusal :=
  wordStep (sdInner (.eventDone boardId gateNumber wordCount)) s

/-- FEBDataPacketTrailer. -/
def execFebDataPacketTrailer (boardId : BoardId)
    (artificialTrl2 eventDoneTimeout d1FifoFull d0FifoFull rbCntError : BitVec 1) (nbDecoderErrors : BitVec 15)
    (s : State) : Host.Outcome State Fault Refusal :=
  wordStep (sdInner (.febDataPacketTrailer boardId artificialTrl2 eventDoneTimeout d1FifoFull d0FifoFull rbCntError
    nbDecoderErrors)) s

/-- Housekeeping. -/
def execHousekeeping (payload : BitVec 28) (s : State) : Host.Outcome State Fault Refusal :=
  wordStep (sdInner (.housekeeping payload)) s

/-- Special. -/
def execSpecial (payload : BitVec 28) (s : State) : Host.Outcome State Fault Refusal :=
  wordStep (sdInner (.special payload)) s

end Sys2Proof.Machine
end

