-- ==== Sys2Proof/Machine/Dispatch.lean ====
section
/-! DEFINITION. The dispatch of an instruction to its meaning: one arm for each row of spec/opcode_table.json. -/

namespace Sys2Proof.Machine

def exec (i : Instr) (s : State) : Host.Outcome State Fault Refusal :=
  match i with
  | .gateHeaderType0 boardId gateType gateNumber => Sys2Proof.Machine.execGateHeaderType0 boardId gateType gateNumber s
  | .gateHeaderType1 boardId gateTimeFromGts unused => Sys2Proof.Machine.execGateHeaderType1 boardId gateTimeFromGts s unused
  | .gtsHeader gtsTag => Sys2Proof.Machine.execGtsHeader gtsTag s
  | .hitTime channelId hitId tagId edge time unused => Sys2Proof.Machine.execHitTime channelId hitId tagId edge time s unused
  | .hitAmplitude channelId hitId tagId amplitudeId amplitudeValue => Sys2Proof.Machine.execHitAmplitude channelId hitId tagId amplitudeId amplitudeValue s
  | .gtsTrailer1 gtsTag => Sys2Proof.Machine.execGtsTrailer1 gtsTag s
  | .gtsTrailer2 data ocbBusy febBusy gtsTime unused => Sys2Proof.Machine.execGtsTrailer2 data ocbBusy febBusy gtsTime s unused
  | .gateTrailer boardId gateType gateNumber unused => Sys2Proof.Machine.execGateTrailer boardId gateType gateNumber s unused
  | .gateTime time => Sys2Proof.Machine.execGateTime time s
  | .ocbPacketHeader gateType gateTag eventNumber => Sys2Proof.Machine.execOcbPacketHeader gateType gateTag eventNumber s
  | .ocbPacketTrailer gateType gateTag errors unused => Sys2Proof.Machine.execOcbPacketTrailer gateType gateTag errors s unused
  | .reserved0xA payload => Sys2Proof.Machine.execReserved0xA s payload
  | .holdTime boardId headerType time unused => Sys2Proof.Machine.execHoldTime boardId headerType time s unused
  | .eventDone boardId gateNumber wordCount => Sys2Proof.Machine.execEventDone boardId gateNumber wordCount s
  | .febDataPacketTrailer boardId artificialTrl2 eventDoneTimeout d1FifoFull d0FifoFull rbCntError nbDecoderErrors => Sys2Proof.Machine.execFebDataPacketTrailer boardId artificialTrl2 eventDoneTimeout d1FifoFull d0FifoFull rbCntError nbDecoderErrors s
  | .housekeeping payload => Sys2Proof.Machine.execHousekeeping payload s
  | .special payload => Sys2Proof.Machine.execSpecial payload s

end Sys2Proof.Machine
end

