-- ==== Sys2Proof/Machine/Step.lean ====
section
/-! DEFINITION. One step of the machine: one input item consumed (spec/00_scope.md R11, spec/44_stream_driver.md
R270). -/

namespace Sys2Proof.Machine

/-- One step. With no item supplied the block waits, all state held (R280, R334). A word is decoded first (R271) and
its instruction executed; `End` is R276. -/
def step (s : State) : Host.Outcome State Fault Refusal :=
  match s.nextItem with
  | none => .next s
  | some (.word raw) => exec (decode raw) s
  | some .endOfStream => endStep s

/-- The state whose next input item is the word with the bits of `w` (log 2). -/
def State.withFetchWord (s : State) (nbits w : Nat) : State := s.withNextItem (.word (tableWord nbits w))

end Sys2Proof.Machine
end

