-- ==== Sys2Proof/Machine/Assembler.lean ====
section
/-! DEFINITION. The assembly notation of spec/30_encoding.md R115 and R116 and the short forms of spec/00_scope.md
R14, at the level of names and numbers: one line is a kind with `field=value` pairs, or a raw word. -/

namespace Sys2Proof.Machine

/-- The kind names of R91 and their short forms of R14. -/
inductive AsmKind where
  | gateHeader | gtsHeader | hitTime | hitAmplitude | gtsTrailer1 | gtsTrailer2 | gateTrailer | gateTime
  | ocbPacketHeader | ocbPacketTrailer | holdTime | eventDone | febDataPacketTrailer | housekeeping | special
  /-- Short forms (R14): OCBHeader, OCBTrailer, FEBTrailer, Trailer1, Trailer2. -/
  | ocbHeader | ocbTrailer | febTrailer | trailer1 | trailer2
deriving DecidableEq, Repr

/-- The kind a name stands for: "the short forms are pure renamings" (R116). -/
def AsmKind.full : AsmKind → AsmKind
  | .ocbHeader => .ocbPacketHeader
  | .ocbTrailer => .ocbPacketTrailer
  | .febTrailer => .febDataPacketTrailer
  | .trailer1 => .gtsTrailer1
  | .trailer2 => .gtsTrailer2
  | k => k

/-- The field names of R93 to R108 and their short forms of R14. -/
inductive AsmField where
  | boardId | headerType | gateType | gateNumber | gateTimeFromGts | gtsTag | channelId | hitId | tagId | edge
  | hitTime | amplitudeId | amplitudeValue | data | ocbBusy | febBusy | gtsTime | gateTime | gateTag | eventNumber
  | errors | holdTime | wordCount | artificialTrl2 | eventDoneTimeout | d1FifoFull | d0FifoFull | rbCntError
  | nbDecoderErrors | payload
  /-- Short forms (R14). -/
  | evt | gt | tag | board | type | ch | hit | t
deriving DecidableEq, Repr

/-- The field a name stands for in a word of kind `k`: `tag` is gate_tag in an OCB word, gts_tag in a GTS word,
tag_id in a hit word (R14). -/
def AsmField.full (k : AsmKind) : AsmField → AsmField
  | .evt => .eventNumber
  | .gt => .gateType
  | .tag =>
    match k.full with
    | .ocbPacketHeader => .gateTag
    | .ocbPacketTrailer => .gateTag
    | .hitTime => .tagId
    | .hitAmplitude => .tagId
    | _ => .gtsTag
  | .board => .boardId
  | .type => .headerType
  | .ch => .channelId
  | .hit => .hitId
  | .t => .hitTime
  | f => f

/-- The number given to field `f` in a line of kind `k`; "a field not given is 0" (R115). -/
def asmValue (k : AsmKind) (fields : List (AsmField × Nat)) (f : AsmField) : Nat :=
  ((fields.find? (fun p => p.1.full k == f)).map Prod.snd).getD 0

/-- The fields a kind takes with their widths (R93 to R108); a GateHeader's depend on its `header_type` (R115). -/
def asmLayout (k : AsmKind) (headerType : Nat) : List (AsmField × Nat) :=
  match k.full with
  | .gateHeader =>
    if headerType = 1 then [(.boardId, 8), (.headerType, 1), (.gateTimeFromGts, 11)]
    else [(.boardId, 8), (.headerType, 1), (.gateType, 3), (.gateNumber, 16)]
  | .gtsHeader => [(.gtsTag, 28)]
  | .hitTime => [(.channelId, 8), (.hitId, 3), (.tagId, 2), (.edge, 1), (.hitTime, 13)]
  | .hitAmplitude => [(.channelId, 8), (.hitId, 3), (.tagId, 2), (.amplitudeId, 3), (.amplitudeValue, 12)]
  | .gtsTrailer1 => [(.gtsTag, 28)]
  | .gtsTrailer2 => [(.data, 1), (.ocbBusy, 1), (.febBusy, 1), (.gtsTime, 20)]
  | .gateTrailer => [(.boardId, 8), (.gateType, 3), (.gateNumber, 16)]
  | .gateTime => [(.gateTime, 28)]
  | .ocbPacketHeader => [(.gateType, 3), (.gateTag, 2), (.eventNumber, 23)]
  | .ocbPacketTrailer => [(.gateType, 3), (.gateTag, 2), (.errors, 16)]
  | .holdTime => [(.boardId, 8), (.headerType, 1), (.holdTime, 11)]
  | .eventDone => [(.boardId, 8), (.gateNumber, 4), (.wordCount, 16)]
  | .febDataPacketTrailer =>
    [(.boardId, 8), (.artificialTrl2, 1), (.eventDoneTimeout, 1), (.d1FifoFull, 1), (.d0FifoFull, 1),
     (.rbCntError, 1), (.nbDecoderErrors, 15)]
  | .housekeeping => [(.payload, 28)]
  | .special => [(.payload, 28)]
  | _ => []

/-- A field given is one the kind takes, its value fits the field (R113), and it is given once.
DESIGN CHOICE, safe (log 19): R115 does not say what a line that breaks this means; it assembles to nothing. -/
def asmFieldsOk (k : AsmKind) (fields : List (AsmField × Nat)) : Bool :=
  fields.all (fun p => (asmLayout k (asmValue k fields .headerType)).any
    (fun q => p.1.full k == q.1 && decide (p.2 < 2 ^ q.2)))
  && decide ((fields.map (fun p => p.1.full k)).Nodup)

/-- The instruction a line of kind `k` stands for (R115), its unused bits 0 (R113). -/
def asmInstr (k : AsmKind) (fields : List (AsmField × Nat)) : Option Instr :=
  if !asmFieldsOk k fields then none
  else
    let v := asmValue k fields
    match k.full with
    | .gateHeader =>
      if v .headerType = 1 then some (.gateHeaderType1 (.ofNat _ (v .boardId)) (.ofNat _ (v .gateTimeFromGts)) 0#8)
      else some (.gateHeaderType0 (.ofNat _ (v .boardId)) (.ofNat _ (v .gateType)) (.ofNat _ (v .gateNumber)))
    | .gtsHeader => some (.gtsHeader (.ofNat _ (v .gtsTag)))
    | .hitTime => some (.hitTime (.ofNat _ (v .channelId)) (.ofNat _ (v .hitId)) (.ofNat _ (v .tagId))
        (.ofNat _ (v .edge)) (.ofNat _ (v .hitTime)) 0#1)
    | .hitAmplitude => some (.hitAmplitude (.ofNat _ (v .channelId)) (.ofNat _ (v .hitId)) (.ofNat _ (v .tagId))
        (.ofNat _ (v .amplitudeId)) (.ofNat _ (v .amplitudeValue)))
    | .gtsTrailer1 => some (.gtsTrailer1 (.ofNat _ (v .gtsTag)))
    | .gtsTrailer2 => some (.gtsTrailer2 (.ofNat _ (v .data)) (.ofNat _ (v .ocbBusy)) (.ofNat _ (v .febBusy))
        (.ofNat _ (v .gtsTime)) 0#5)
    | .gateTrailer => some (.gateTrailer (.ofNat _ (v .boardId)) (.ofNat _ (v .gateType))
        (.ofNat _ (v .gateNumber)) 0#1)
    | .gateTime => some (.gateTime (.ofNat _ (v .gateTime)))
    | .ocbPacketHeader => some (.ocbPacketHeader (.ofNat _ (v .gateType)) (.ofNat _ (v .gateTag))
        (.ofNat _ (v .eventNumber)))
    | .ocbPacketTrailer => some (.ocbPacketTrailer (.ofNat _ (v .gateType)) (.ofNat _ (v .gateTag))
        (.ofNat _ (v .errors)) 0#7)
    | .holdTime => some (.holdTime (.ofNat _ (v .boardId)) (.ofNat _ (v .headerType)) (.ofNat _ (v .holdTime)) 0#8)
    | .eventDone => some (.eventDone (.ofNat _ (v .boardId)) (.ofNat _ (v .gateNumber)) (.ofNat _ (v .wordCount)))
    | .febDataPacketTrailer => some (.febDataPacketTrailer (.ofNat _ (v .boardId)) (.ofNat _ (v .artificialTrl2))
        (.ofNat _ (v .eventDoneTimeout)) (.ofNat _ (v .d1FifoFull)) (.ofNat _ (v .d0FifoFull))
        (.ofNat _ (v .rbCntError)) (.ofNat _ (v .nbDecoderErrors)))
    | .housekeeping => some (.housekeeping (.ofNat _ (v .payload)))
    | .special => some (.special (.ofNat _ (v .payload)))
    | _ => none

/-- One line: a kind with its fields, or a raw word "written as its 8-digit hexadecimal value" (R115, R116). -/
inductive AsmLine where
  | fields (kind : AsmKind) (given : List (AsmField × Nat))
  | raw (w : Word)
deriving DecidableEq, Repr

/-- The one word a line assembles to: `encode` of R113 (R115); no line expands to more (R116). -/
def AsmLine.assemble : AsmLine → Option Word
  | .fields kind given => (asmInstr kind given).map encode
  | .raw w => some w

end Sys2Proof.Machine
end

