-- ==== Sys2Proof/Machine/ByteSource.lean ====
section
/-! DEFINITION. The host's side of the input: the byte source outside the block, at its word-level interface
(spec/20_memory.md R60 to R63), and how items reach the block. No rule of the block depends on it. -/

namespace Sys2Proof.Machine

/-- A word from four consecutive bytes `b0 b1 b2 b3` of the source (R61).
PRESUMED, unsafe (log 12): R61 marks the two formulas as general knowledge, not in its source. -/
def wordOfBytes (order : ByteOrder) (b0 b1 b2 b3 : BitVec 8) : Word :=
  match order with
  | .little => place b0 0 ||| place b1 8 ||| place b2 16 ||| place b3 24
  | .big => place b0 24 ||| place b1 16 ||| place b2 8 ||| place b3 0

/-- The words of a byte sequence: whole 4-byte groups, 1 to 3 bytes left at the end dropped (R61, R63). -/
def wordsOfBytes (order : ByteOrder) : List (BitVec 8) → List Word
  | b0 :: b1 :: b2 :: b3 :: rest => wordOfBytes order b0 b1 b2 b3 :: wordsOfBytes order rest
  | _ => []

/-- The items of a word stream: its words in order, then one `End` (R11, R60). -/
def streamItems (words : List Word) : List InputItem := words.map .word ++ [.endOfStream]

/-- The host supplies items after those not consumed yet (R60, R342; log 2). -/
def State.supply (s : State) (items : List InputItem) : State := { s with input := s.input ++ items }

end Sys2Proof.Machine
end

