-- ==== Sys2Proof/Safety.lean ====
section
/-! DEFINITION. What the spec says of every state a run reaches: the form of the stores, of the fault record and of the
emitted items, in the terms the statements use. -/

namespace Sys2Proof.Machine

/-- The canonical form of `SD.buf` (R66): while inside an envelope its first word is an OCBPacketHeader and no other
is an OCB header or trailer; while outside it is empty. -/
def Memory.wf (insideOcb : Bool) (buf : List Instr) : Bool :=
  if insideOcb then
    match buf with
    | .ocbPacketHeader _ _ _ :: rest => rest.all Instr.interior
    | _ => false
  else buf == []

/-- The canonical form of a finite map: keys strictly ascending. -/
def KeyMap.wf {α : Type} (m : KeyMap α) : Bool := decide ((m.map Prod.fst).Pairwise (· < ·))

/-- `SD.buf` never holds more than a finite `MAX_OCB_WORDS` words (R70). -/
def State.capacityWf (s : State) : Bool :=
  match s.params.maxOcbWords with
  | none => true
  | some limit => decide (s.buf.length ≤ limit)

/-- Between steps the working registers of OA, FA and GA hold nothing of a run (R25, R29, R30; log 7). -/
def State.registersWf (s : State) : Bool := s.oa == OARegs.start && s.fa == FARegs.start && s.ga == GARegs.start

/-- The item is an Event. -/
def OutItem.isEvent : OutItem → Bool
  | .event _ _ => true
  | .fault _ => false

/-- "At most one `Fault` item is ever emitted and it is the last item" (R24), it is the fault record, and in the
faulted state no envelope is open and `pos` is the fault's (R23, R277). -/
def State.faultWf (s : State) : Bool :=
  match s.fault with
  | none => s.out.all OutItem.isEvent
  | some record =>
    s.out.dropLast.all OutItem.isEvent && s.out.getLast? == some (.fault record) && !s.insideOcb &&
      record.pos == s.pos

/-- No item follows an `End` (R60: the sequence is "ended by one `End` item"). -/
def inputWf : List InputItem → Bool
  | [] => true
  | .word _ :: rest => inputWf rest
  | .endOfStream :: rest => rest == []

/-- A merged HitTime record of an emitted event: the rise fields are set, the three fall fields are all set or all
absent (R34). -/
def MergedHitTime.wf (m : MergedHitTime) : Bool :=
  m.riseGtsTag.isSome && (m.fallTime.isSome == m.fallTagId.isSome) && (m.fallTagId.isSome == m.fallGtsTag.isSome)

/-- A merged HitAmplitude record of an emitted event: at least one sample, each sample with its tags (R35). -/
def MergedHitAmplitude.wf (m : MergedHitAmplitude) : Bool :=
  (m.lgAmplitude.isSome || m.hgAmplitude.isSome)
  && (m.lgAmplitude.isSome == m.lgTagId.isSome) && (m.lgTagId.isSome == m.lgGtsTag.isSome)
  && (m.hgAmplitude.isSome == m.hgTagId.isSome) && (m.hgTagId.isSome == m.hgGtsTag.isSome)

/-- The records of a FEB packet are well formed. -/
def FEBPacket.wf (p : FEBPacket) : Bool :=
  p.hitTimes.all MergedHitTime.wf && p.hitAmplitudes.all MergedHitAmplitude.wf

/-- "the FEB slot at index `i`, if non-empty, has `board_id == i`" (R37), and its records are well formed. -/
def OCBEvent.wf (ev : OCBEvent) : Bool :=
  (List.range Config.numFebsPerOcb).all
    (fun b => (ev.slot b).all (fun p => p.boardId.toNat == b && p.wf))

/-- A warning as its rule raises it: a real mismatch (R313), a board id that names no slot (R314), one that does
(R315), a kind with no rule of its own (R316); W_HIT_BLOCK_SIZE never (R317). -/
def Warning.wf : Warning → Bool
  | .wordCountMismatch _ reported counted => reported != counted
  | .invalidBoardId _ boardId => decide (Config.numFebsPerOcb ≤ boardId.toNat)
  | .duplicateFeb _ boardId => decide (boardId.toNat < Config.numFebsPerOcb)
  | .unexpectedWord _ id => id == 0x6#4 || id == 0xE#4 || id == 0xF#4
  | .hitBlockSize => false

/-- An emitted item is well formed. -/
def OutItem.wf : OutItem → Bool
  | .event ev warnings => ev.wf && warnings.all Warning.wf
  | .fault _ => true

/-- What every step keeps and reset has: the canonical form of the buffer, its capacity, the working registers at
rest, the fault record and the output in step. -/
def State.wf (s : State) : Bool :=
  Memory.wf s.insideOcb s.buf && s.capacityWf && s.registersWf && s.faultWf

/-- The window invariant of the FEB Assembler (R203 corner case b, R212): a window that holds words has a tag. -/
def FARegs.windowsWf (r : FARegs) : Prop :=
  (r.currentWords ≠ [] → r.currentTag.isSome) ∧ (r.previousWords ≠ [] → r.previousTag.isSome)

/-- `SD.buf` has room for one more word (R70). -/
def State.hasRoom (s : State) : Prop := ∀ limit, s.params.maxOcbWords = some limit → s.buf.length < limit

/-! ### Classes of words the statements count -/

/-- The word is a HitTime. -/
def isHitTime : Instr → Bool
  | .hitTime _ _ _ _ _ _ => true
  | _ => false

/-- The word is a HitTime with `edge = 0` (R163). -/
def isRisingEdge : Instr → Bool
  | .hitTime _ _ _ edge _ _ => edge == 0#1
  | _ => false

/-- What a rising edge writes into the record it creates: (channel_id, hit_id, hit_time, tag_id) (R163). -/
def risingEdge : Instr → Option (ChannelId × HitId × BitVec 13 × TagId)
  | .hitTime channelId hitId tagId edge time _ => if edge = 0#1 then some (channelId, hitId, time, tagId) else none
  | _ => none

/-- What a falling edge writes into the record of its key: (channel_id, hit_id, hit_time, tag_id) (R164). -/
def fallingEdge : Instr → Option (ChannelId × HitId × BitVec 13 × TagId)
  | .hitTime channelId hitId tagId edge time _ => if edge = 0#1 then none else some (channelId, hitId, time, tagId)
  | _ => none

/-- The word is a HitAmplitude. -/
def isHitAmplitude : Instr → Bool
  | .hitAmplitude _ _ _ _ _ => true
  | _ => false

/-- The channel of a HitAmplitude word. -/
def amplitudeChannel : Instr → Option ChannelId
  | .hitAmplitude channelId _ _ _ _ => some channelId
  | _ => none

/-- The word is a GTSHeader. -/
def isGtsHeader : Instr → Bool
  | .gtsHeader _ => true
  | _ => false

/-- The `gts_time` of a GTSTrailer2. -/
def trailer2Time : Instr → Option (BitVec 20)
  | .gtsTrailer2 _ _ _ gtsTime _ => some gtsTime
  | _ => none

/-- The GTS-level kinds, those that R243 and R254 to R257 count by the GTS counter. -/
def isGtsLevel : Instr → Bool
  | .gtsHeader _ => true
  | .hitTime _ _ _ _ _ _ => true
  | .hitAmplitude _ _ _ _ _ => true
  | .gtsTrailer1 _ => true
  | .gtsTrailer2 _ _ _ _ _ => true
  | _ => false

/-- A run is safe while no fatal error has been raised. -/
def State.running (s : State) : Bool := s.fault.isNone

end Sys2Proof.Machine
end

