-- ==== Sys2Proof/Certificates/Slice0/Obligations.lean ====
section
/-! DEFINITION. The statements for the provers, in the order of the units: decoding, the step, the Stream Driver, the
GTS, FEB and OCB Assemblers, whole envelopes, the host's side. -/

open Sys2Proof Sys2Proof.Machine

/-! ### Decoding -/

/-- For each row of the opcode table, the example word of its decode rule R131 to R146 decodes to the kind and the
fields that the rule gives, its unused bits 0; the word of the reserved row fails with InvalidWord (R141). -/
def Obligations.DecoderReadsExampleWords : Prop :=
  decode 0x00351234#32 = .gateHeaderType0 3#8 5#3 0x1234#16 ∧
  decode 0x003802A5#32 = .gateHeaderType1 3#8 0x2A5#11 0#8 ∧
  decode 0x1ABCDEF1#32 = .gtsHeader 0xABCDEF1#28 ∧
  decode 0x27FB5ABC#32 = .hitTime 0x7F#8 5#3 2#2 1#1 0x1ABC#13 0#1 ∧
  decode 0x3423AFFF#32 = .hitAmplitude 0x42#8 1#3 3#2 2#3 0xFFF#12 ∧
  decode 0x40000011#32 = .gtsTrailer1 0x11#28 ∧
  decode 0x5A0FFFFF#32 = .gtsTrailer2 1#1 0#1 1#1 0xFFFFF#20 0#5 ∧
  decode 0x6081BEEF#32 = .gateTrailer 8#8 1#3 0xBEEF#16 0#1 ∧
  decode 0x71234567#32 = .gateTime 0x1234567#28 ∧
  decode 0x84FFFFFF#32 = .ocbPacketHeader 2#3 1#2 0x7FFFFF#23 ∧
  decode 0x94808001#32 = .ocbPacketTrailer 2#3 1#2 0x8001#16 0#7 ∧
  wordDecode 0xA0000000#32 = .error (.invalidWord 0xA#4) ∧
  decode 0xB01807FF#32 = .holdTime 1#8 1#1 0x7FF#11 0#8 ∧
  decode 0xC01F0063#32 = .eventDone 1#8 0xF#4 99#16 ∧
  decode 0xD02AFFFF#32 = .febDataPacketTrailer 2#8 1#1 0#1 1#1 0#1 1#1 0x7FFF#15 ∧
  decode 0xE0123456#32 = .housekeeping 0x0123456#28 ∧
  decode 0xFFFFFFFF#32 = .special 0xFFFFFFF#28

/-- R31, R109, R130: a decoded word keeps its raw word: every word is the raw word of what it decodes to, and every
instruction is what its raw word decodes to. For a word of the reserved id 0xA, whose decoding fails by R130 and R141, that
`decode` gives the kind `reserved0xA` with the payload kept is the model's choice (log 9). R114: decoding an
encoded word of a known kind gives its kind and every field back, with unused bits 0 (R113), and re-encoding a word whose
id is not 0xA gives the word with its unused bits cleared. -/
def Obligations.DecodeEncodeRoundTrip : Prop :=
  (∀ raw : Word, (decode raw).raw = raw) ∧
  (∀ i : Instr, decode i.raw = i) ∧
  (∀ i : Instr, i.wellFormed = true → wordDecode (encode i) = .ok i.clearUnused) ∧
  (∀ raw : Word, idOf raw ≠ 0xA#4 → encode (decode raw) = raw &&& ~~~unusedBits (decode raw))

/-- R141: a word of id 0xA fails decoding with InvalidWord carrying that id, whatever its payload; every other word
decodes, to a kind of its own id that keeps the word as its raw word (R130). -/
def Obligations.OnlyReservedIdIsInvalid : Prop :=
  ∀ raw : Word,
    (idOf raw = 0xA#4 → wordDecode raw = .error (.invalidWord 0xA#4)) ∧
    (idOf raw ≠ 0xA#4 → ∃ i, wordDecode raw = .ok i ∧ i.wordId = idOf raw ∧ i.raw = raw)

/-- R109: two words that differ only in payload bits their layout leaves out decode to the same kind and fields, and no
rule depends on those bits: with them cleared in the executed word and in every buffered word, an instruction does what it
does without, but for the raw words in the buffer it leaves. -/
def Obligations.UnusedBitsAreIgnored : Prop :=
  (∀ raw change : Word,
    (decode (raw ^^^ (change &&& unusedBits (decode raw)))).clearUnused = (decode raw).clearUnused) ∧
  (∀ (i : Instr) (s t : State), exec i s = .next t →
    exec i.clearUnused { s with buf := s.buf.map Instr.clearUnused } =
      .next { t with buf := t.buf.map Instr.clearUnused })

/-- A word matches a row of the opcode table (`raw & mask = match`) exactly when the decoder reads that row's kind, so
every word matches one row only. -/
def Obligations.WordMatchesItsOpcodeRow : Prop :=
  ∀ (raw : Word) (i : Instr),
    raw &&& opcodeMask i = opcodeMatch i ↔ opcodeMatch (decode raw) = opcodeMatch i

/-! ### The step -/

/-- A step on a `Word` item is the execution of the instruction that the word decodes to. The model's own field `input`
(log 2) holds the items; `exec` takes the word off it. -/
def Obligations.StepRunsDecodedInstruction : Prop :=
  ∀ (s : State) (raw : Word) (rest : List InputItem), s.input = .word raw :: rest → step s = exec (decode raw) s

/-- R280: while no item is there the block waits, all state held. -/
def Obligations.WaitingHoldsState : Prop :=
  ∀ s : State, s.input = [] → step s = .next s

/-- In the faulted state every step is a no-op: whatever the item, nothing but the supply of items changes (the model's
own field `input`, log 4). -/
def Obligations.FaultedBlockIgnoresItems : Prop :=
  ∀ s : State, s.fault ≠ none → step s = .next { s with input := s.input.tail }

/-- R276: `End` inside an envelope raises TruncatedStream with the number of buffered words; outside it changes
nothing. -/
def Obligations.EndOfStreamTruncates : Prop :=
  ∀ (s : State) (rest : List InputItem), s.input = .endOfStream :: rest → s.fault = none →
    (s.insideOcb = true → step s = .next (s.consume.raise (.truncatedStream s.buf.length))) ∧
    (s.insideOcb = false → step s = .next { s with input := rest })

/-- Every step of every state answers a next state: no instruction stops the model (log 1). It never changes the
parameters and appends zero or one items to the output. -/
def Obligations.EveryStepAnswersNext : Prop :=
  ∀ s : State, ∃ t : State, step s = .next t ∧
    t.params = s.params ∧ (t.out = s.out ∨ ∃ item, t.out = s.out ++ [item])

/-- R279: a `Word` step without a fatal error advances the position by one, whatever the kind and wherever it stands; no
step changes it in any other way. -/
def Obligations.PositionAdvancesByOne : Prop :=
  (∀ (s t : State) (raw : Word) (rest : List InputItem), s.input = .word raw :: rest → s.fault = none →
    step s = .next t → t.fault = none → t.pos = s.pos + 1) ∧
  (∀ s t : State, step s = .next t →
    t.pos = s.pos ∨ (t.pos = s.pos + 1 ∧ t.fault = none ∧ ∃ raw rest, s.input = .word raw :: rest))

/-- R277: a step that raises a fatal error sets the fault record at the position of the step's item, emits that one
Fault item and no Event, clears the buffer and the flag and leaves the position; the next step changes none of these, and
no later one does (FaultedBlockIgnoresItems). -/
def Obligations.FatalErrorIsTaken : Prop :=
  ∀ s t : State, s.fault = none → step s = .next t → t.fault ≠ none →
    ∃ e : FatalError, t.fault = some { error := e, pos := s.pos } ∧
      t.out = s.out ++ [.fault { error := e, pos := s.pos }] ∧ t.buf = [] ∧ t.insideOcb = false ∧ t.pos = s.pos ∧
      ∀ u : State, step t = .next u → u.fault = t.fault ∧ u.out = t.out ∧ u.buf = [] ∧ u.insideOcb = false ∧
        u.pos = t.pos

/-- What `raise` is in the statements below: exactly the state of R277. The working registers at their start values are
the model's choice (log 7). -/
def Obligations.RaiseWritesTheFaultRecord : Prop :=
  ∀ (s : State) (e : FatalError),
    s.consume.raise e = { s with
      input := s.input.tail, fault := some { error := e, pos := s.pos },
      out := s.out ++ [.fault { error := e, pos := s.pos }], buf := [], insideOcb := false,
      oa := OARegs.start, fa := FARegs.start, ga := GARegs.start }

/-! ### The Stream Driver: what each word completes with -/

/-- GateHeader.type0, GateHeader.type1, GateTrailer, GateTime and HoldTime inside an envelope with room: the word is
appended to the buffer, the position advances, nothing else changes (R273, R279). -/
def Obligations.GateWordsAreBuffered : Prop :=
  ∀ s : State, s.fault = none → s.insideOcb = true → s.hasRoom →
    (∀ b t n, exec (.gateHeaderType0 b t n) s =
      .next { s with input := s.input.tail, buf := s.buf ++ [.gateHeaderType0 b t n], pos := s.pos + 1 }) ∧
    (∀ b t u, exec (.gateHeaderType1 b t u) s =
      .next { s with input := s.input.tail, buf := s.buf ++ [.gateHeaderType1 b t u], pos := s.pos + 1 }) ∧
    (∀ b t n u, exec (.gateTrailer b t n u) s =
      .next { s with input := s.input.tail, buf := s.buf ++ [.gateTrailer b t n u], pos := s.pos + 1 }) ∧
    (∀ t, exec (.gateTime t) s =
      .next { s with input := s.input.tail, buf := s.buf ++ [.gateTime t], pos := s.pos + 1 }) ∧
    (∀ b h t u, exec (.holdTime b h t u) s =
      .next { s with input := s.input.tail, buf := s.buf ++ [.holdTime b h t u], pos := s.pos + 1 })

/-- GTSHeader, HitTime, HitAmplitude, GTSTrailer1 and GTSTrailer2 inside an envelope with room: the word is appended to
the buffer, the position advances, nothing else changes (R273, R279). -/
def Obligations.GtsLevelWordsAreBuffered : Prop :=
  ∀ s : State, s.fault = none → s.insideOcb = true → s.hasRoom →
    (∀ g, exec (.gtsHeader g) s =
      .next { s with input := s.input.tail, buf := s.buf ++ [.gtsHeader g], pos := s.pos + 1 }) ∧
    (∀ c h t e x u, exec (.hitTime c h t e x u) s =
      .next { s with input := s.input.tail, buf := s.buf ++ [.hitTime c h t e x u], pos := s.pos + 1 }) ∧
    (∀ c h t a x, exec (.hitAmplitude c h t a x) s =
      .next { s with input := s.input.tail, buf := s.buf ++ [.hitAmplitude c h t a x], pos := s.pos + 1 }) ∧
    (∀ g, exec (.gtsTrailer1 g) s =
      .next { s with input := s.input.tail, buf := s.buf ++ [.gtsTrailer1 g], pos := s.pos + 1 }) ∧
    (∀ d o f t u, exec (.gtsTrailer2 d o f t u) s =
      .next { s with input := s.input.tail, buf := s.buf ++ [.gtsTrailer2 d o f t u], pos := s.pos + 1 })

/-- EventDone, FEBDataPacketTrailer, Housekeeping and Special inside an envelope with room: the word is appended to the
buffer, the position advances, nothing else changes (R273, R279). -/
def Obligations.PacketWordsAreBuffered : Prop :=
  ∀ s : State, s.fault = none → s.insideOcb = true → s.hasRoom →
    (∀ b n c, exec (.eventDone b n c) s =
      .next { s with input := s.input.tail, buf := s.buf ++ [.eventDone b n c], pos := s.pos + 1 }) ∧
    (∀ b f1 f2 f3 f4 f5 n, exec (.febDataPacketTrailer b f1 f2 f3 f4 f5 n) s =
      .next { s with
        input := s.input.tail, buf := s.buf ++ [.febDataPacketTrailer b f1 f2 f3 f4 f5 n], pos := s.pos + 1 }) ∧
    (∀ p, exec (.housekeeping p) s =
      .next { s with input := s.input.tail, buf := s.buf ++ [.housekeeping p], pos := s.pos + 1 }) ∧
    (∀ p, exec (.special p) s =
      .next { s with input := s.input.tail, buf := s.buf ++ [.special p], pos := s.pos + 1 })

/-- R273: inside an envelope each of the 13 interior kinds is appended, after every word that stood in the buffer, and
raises BufferOverflow when the buffer holds `MAX_OCB_WORDS` words. -/
def Obligations.InteriorWordAppendsOrOverflows : Prop :=
  ∀ (i : Instr) (s : State), i.interior = true → s.fault = none → s.insideOcb = true →
    (s.hasRoom → ∃ t, exec i s = .next t ∧ t.fault = none ∧ t.insideOcb = true ∧ t.out = s.out ∧
      t.buf.length = s.buf.length + 1 ∧ memRead t.buf s.buf.length = some i ∧
      ∀ k, k < s.buf.length → memRead t.buf k = memRead s.buf k) ∧
    (s.params.maxOcbWords = some s.buf.length → exec i s = .next (s.consume.raise .bufferOverflow))

/-- R272: an OCBPacketHeader outside an envelope opens one, with the header alone in the buffer; inside it raises
NestedOcbHeader; with `MAX_OCB_WORDS = 0` it overflows. -/
def Obligations.HeaderOpensEnvelope : Prop :=
  ∀ (s : State) (gateType : BitVec 3) (gateTag : BitVec 2) (eventNumber : BitVec 23), s.fault = none →
    (s.insideOcb = false → s.params.maxOcbWords ≠ some 0 →
      exec (.ocbPacketHeader gateType gateTag eventNumber) s =
        .next { s with
          input := s.input.tail, buf := [.ocbPacketHeader gateType gateTag eventNumber], insideOcb := true,
          pos := s.pos + 1 }) ∧
    (s.insideOcb = false → s.params.maxOcbWords = some 0 →
      exec (.ocbPacketHeader gateType gateTag eventNumber) s = .next (s.consume.raise .bufferOverflow)) ∧
    (s.insideOcb = true →
      exec (.ocbPacketHeader gateType gateTag eventNumber) s = .next (s.consume.raise .nestedOcbHeader))

/-- R274: an OCBPacketTrailer inside an envelope appends itself, or raises BufferOverflow when the buffer holds
`MAX_OCB_WORDS` words (R70); then it runs the OCB Assembler on the buffer; its event and warnings are emitted and flag and
buffer cleared, or its fatal error is taken and no event emitted. The working registers at their start values after the run
are the model's choice (log 7). -/
def Obligations.TrailerClosesEnvelope : Prop :=
  ∀ (s : State) (gateType : BitVec 3) (gateTag : BitVec 2) (errors : BitVec 16) (unused : BitVec 7),
    s.fault = none → s.insideOcb = true →
    (s.params.maxOcbWords = some s.buf.length →
      exec (.ocbPacketTrailer gateType gateTag errors unused) s = .next (s.consume.raise .bufferOverflow)) ∧
    (s.hasRoom →
      (∀ ev warnings, ocbAssemble (s.buf ++ [.ocbPacketTrailer gateType gateTag errors unused]) = .ok (ev, warnings) →
        exec (.ocbPacketTrailer gateType gateTag errors unused) s =
          .next { s with
            input := s.input.tail, buf := [], insideOcb := false, pos := s.pos + 1,
            out := s.out ++ [.event ev warnings], oa := OARegs.start, fa := FARegs.start, ga := GARegs.start }) ∧
      (∀ e, ocbAssemble (s.buf ++ [.ocbPacketTrailer gateType gateTag errors unused]) = .error e →
        exec (.ocbPacketTrailer gateType gateTag errors unused) s = .next (s.consume.raise e)))

/-- An OCBPacketTrailer that closes an envelope without any FEBDataPacketTrailer, with the header's gate_type and
gate_tag, always completes: one event with the header's and the trailer's fields and nine empty slots; no warnings when
the interior is empty (R258). -/
def Obligations.EnvelopeWithoutFebGivesEmptyEvent : Prop :=
  ∀ (s : State) (gateType : BitVec 3) (gateTag : BitVec 2) (eventNumber : BitVec 23) (errors : BitVec 16)
    (unused : BitVec 7) (mid : List Instr),
    s.fault = none → s.insideOcb = true → s.hasRoom →
    s.buf = .ocbPacketHeader gateType gateTag eventNumber :: mid → (∀ w ∈ mid, trailerStatus w = none) →
    ∃ t warnings, exec (.ocbPacketTrailer gateType gateTag errors unused) s = .next t ∧
      t.out = s.out ++
        [.event { eventNumber, gateType, gateTag, errors, febs := Vector.replicate 9 none } warnings] ∧
      t.fault = none ∧ t.insideOcb = false ∧ t.buf = [] ∧ t.pos = s.pos + 1 ∧ (mid = [] → warnings = [])

/-- R271: a word of the reserved id raises InvalidWord with id 0xA, inside or outside an envelope, under either stray
word policy. -/
def Obligations.ReservedWordIsFatal : Prop :=
  ∀ (s : State) (payload : BitVec 28), s.fault = none →
    exec (.reserved0xA payload) s = .next (s.consume.raise (.invalidWord 0xA#4))

/-- R275: outside an envelope every known kind but OCBPacketHeader is a stray word: dropped under `discard`, only the
position advances; StrayWord with its id under `fault`. -/
def Obligations.StrayWordsFollowPolicy : Prop :=
  ∀ (i : Instr) (s : State), i.wellFormed = true →
    (∀ gateType gateTag eventNumber, i ≠ .ocbPacketHeader gateType gateTag eventNumber) →
    s.fault = none → s.insideOcb = false →
    (s.params.strayPolicy = .discard → exec i s = .next { s with input := s.input.tail, pos := s.pos + 1 }) ∧
    (s.params.strayPolicy = .fault → exec i s = .next (s.consume.raise (.strayWord i.wordId)))

/-! ### The state -/

/-- R340: the values after reset. That the working registers of FA and GA hold values between runs, at reset those of a
run's start, is the model's choice (log 7): R340 gives them no value there. R307: the host's reset, the way out of the
faulted state, gives the same values to every register. That the items not consumed yet and the parameters stay is the
model's choice (log 16). -/
def Obligations.ResetValues : Prop :=
  (State.reset.buf = [] ∧ State.reset.insideOcb = false ∧ State.reset.pos = 0 ∧ State.reset.fault = none ∧
    State.reset.out = [] ∧ State.reset.fa.currentTag = none ∧ State.reset.fa.previousTag = none ∧
    State.reset.ga.timeMap = [] ∧ State.reset.ga.ampMap = []) ∧
  ∀ s : State, s.hostReset = { State.reset with params := s.params, input := s.input }

/-- The invariants of the model hold at reset, among them the working registers at rest, the model's choice (log 7). -/
def Obligations.ResetIsWellFormed : Prop :=
  State.reset.wf = true ∧ State.reset.out.all OutItem.wf = true ∧ inputWf State.reset.input = true

/-- Every step keeps the form of the state: the buffer's canonical form (R66), its capacity (R70), the working registers
at rest (log 7), and the fault record in step with the output, whose last item alone is a Fault (R23, R24, R277). -/
def Obligations.StepKeepsStateForm : Prop :=
  ∀ s t : State, s.wf = true → step s = .next t → t.wf = true

/-- Every step keeps the emitted items well formed: a filled slot `i` holds board `i` (R37, R250), records have the form
of R34 and R35 with their tags set, warnings are those their rules raise (R313 to R317). -/
def Obligations.StepKeepsEventsWellFormed : Prop :=
  ∀ s t : State, Memory.wf s.insideOcb s.buf = true → s.out.all OutItem.wf = true → step s = .next t →
    t.out.all OutItem.wf = true

/-- The contract errors of the inner assemblers cannot occur in the composed block (R217, R234, R304): no step from a
state with the buffer in canonical form raises FebPacketEmpty, FebEnvelopeViolation or OcbEnvelopeViolation. -/
def Obligations.ContractErrorsAreUnreachable : Prop :=
  ∀ (s t : State) (record : FaultRecord), Memory.wf s.insideOcb s.buf = true → s.fault = none → step s = .next t →
    t.fault = some record →
    record.error ≠ .febPacketEmpty ∧ record.error ≠ .febEnvelopeViolation ∧ record.error ≠ .ocbEnvelopeViolation

/-! ### The GTS Assembler -/

/-- R163: a rising edge opens a record of its key (channel_id, hit_id) with the rise fields and the run's tag, every
other key untouched; a key that has an open record raises DuplicateRisingEdge. -/
def Obligations.RisingEdgeOpensRecord : Prop :=
  ∀ (board : BoardId) (tag : Option GtsTag) (c : ChannelId) (h : HitId) (t : TagId) (x : BitVec 13) (u : BitVec 1) (r : GARegs),
    (KeyMap.find (timeKey c h) r.timeMap ≠ none →
      gaTimeVisit board tag (.hitTime c h t 0#1 x u) r = .error (.duplicateRisingEdge c h)) ∧
    (KeyMap.find (timeKey c h) r.timeMap = none →
      ∃ r', gaTimeVisit board tag (.hitTime c h t 0#1 x u) r = .ok r' ∧
        KeyMap.find (timeKey c h) r'.timeMap =
          some { channelId := c, hitId := h, riseTime := x, riseTagId := t, riseGtsTag := tag,
                 fallTime := none, fallTagId := none, fallGtsTag := none } ∧
        (∀ c' h', (c', h') ≠ (c, h) →
          KeyMap.find (timeKey c' h') r'.timeMap = KeyMap.find (timeKey c' h') r.timeMap) ∧
        r'.timeOut = r.timeOut ∧ r'.ampMap = r.ampMap ∧ r'.ampOut = r.ampOut)

/-- R164: a falling edge completes the open record of its key with the fall fields and the run's tag, appends it to the
output and removes the key, every other key untouched; a key with no open record raises FallingBeforeRising. The map's
canonical form, a premise and a clause of the conclusion, is the model's (log 11), kept by MergeMapsKeepTheirForm. -/
def Obligations.FallingEdgeCompletesRecord : Prop :=
  ∀ (board : BoardId) (tag : Option GtsTag) (c : ChannelId) (h : HitId) (t : TagId) (x : BitVec 13) (u : BitVec 1) (r : GARegs),
    KeyMap.wf r.timeMap = true →
    (KeyMap.find (timeKey c h) r.timeMap = none →
      gaTimeVisit board tag (.hitTime c h t 1#1 x u) r = .error (.fallingBeforeRising c h)) ∧
    (∀ m, KeyMap.find (timeKey c h) r.timeMap = some m →
      ∃ r', gaTimeVisit board tag (.hitTime c h t 1#1 x u) r = .ok r' ∧
        r'.timeOut = r.timeOut ++ [{ m with fallTime := some x, fallTagId := some t, fallGtsTag := tag }] ∧
        KeyMap.find (timeKey c h) r'.timeMap = none ∧
        (∀ c' h', (c', h') ≠ (c, h) →
          KeyMap.find (timeKey c' h') r'.timeMap = KeyMap.find (timeKey c' h') r.timeMap) ∧
        KeyMap.wf r'.timeMap = true ∧ r'.ampMap = r.ampMap ∧ r'.ampOut = r.ampOut)

/-- R166: a HitAmplitude of `amplitude_id` 2 sets the high gain of its channel's record, one of any other value the low
gain, the other gain and every other channel untouched; a gain that is set already raises DuplicateGainHG or
DuplicateGainLG. The record of a channel with none starts blank. -/
def Obligations.AmplitudeSetsOneGain : Prop :=
  ∀ (board : BoardId) (tag : Option GtsTag) (c : ChannelId) (h : HitId) (t : TagId) (a : BitVec 3) (x : BitVec 12)
    (r : GARegs) (m : MergedHitAmplitude),
    m = (KeyMap.find c.toNat r.ampMap).getD
      { channelId := c, lgAmplitude := none, lgTagId := none, lgGtsTag := none,
        hgAmplitude := none, hgTagId := none, hgGtsTag := none } →
    (a = 2#3 → m.hgAmplitude ≠ none →
      gaAmpVisit board tag (.hitAmplitude c h t a x) r = .error (.duplicateGainHG c)) ∧
    (a ≠ 2#3 → m.lgAmplitude ≠ none →
      gaAmpVisit board tag (.hitAmplitude c h t a x) r = .error (.duplicateGainLG c)) ∧
    ((a = 2#3 → m.hgAmplitude = none) → (a ≠ 2#3 → m.lgAmplitude = none) →
      ∃ r', gaAmpVisit board tag (.hitAmplitude c h t a x) r = .ok r' ∧
        KeyMap.find c.toNat r'.ampMap = some
          (if a = 2#3 then { m with hgAmplitude := some x, hgTagId := some t, hgGtsTag := tag }
           else { m with lgAmplitude := some x, lgTagId := some t, lgGtsTag := tag }) ∧
        (∀ c', c' ≠ c → KeyMap.find c'.toNat r'.ampMap = KeyMap.find c'.toNat r.ampMap) ∧
        r'.timeMap = r.timeMap ∧ r'.timeOut = r.timeOut ∧ r'.ampOut = r.ampOut)

/-- The merge maps are finite maps by key (R30): empty at the start of a run, and every word of either pass keeps their
canonical form, keys strictly ascending (log 11). -/
def Obligations.MergeMapsKeepTheirForm : Prop :=
  (KeyMap.wf GARegs.start.timeMap = true ∧ KeyMap.wf GARegs.start.ampMap = true) ∧
  (∀ (board : BoardId) (tag : Option GtsTag) (w : Instr) (r r' : GARegs),
    KeyMap.wf r.timeMap = true → KeyMap.wf r.ampMap = true →
    (gaTimeVisit board tag w r = .ok r' ∨ gaAmpVisit board tag w r = .ok r') →
    KeyMap.wf r'.timeMap = true ∧ KeyMap.wf r'.ampMap = true)

/-- R167, R169: the run is a pass over the block's HitTime words followed by a pass over its HitAmplitude words, whatever
their order in the block; every other kind is skipped, and an error of the first pass hides one of the second. -/
def Obligations.HitPassesAreSeparate : Prop :=
  ∀ (board : BoardId) (tag : Option GtsTag) (block : List Instr),
    gtsAssemble board tag block =
      match gtsAssemble board tag (block.filter isHitTime) with
      | .error e => .error e
      | .ok (timeOut, _) =>
        match gtsAssemble board tag (block.filter isHitAmplitude) with
        | .error e => .error e
        | .ok (_, ampOut) => .ok (timeOut, ampOut)

/-- R172: a block with no hit words gives two empty lists and raises nothing. -/
def Obligations.BlockWithoutHitsIsEmpty : Prop :=
  ∀ (board : BoardId) (tag : Option GtsTag) (block : List Instr), (∀ w ∈ block, hitTagId w = none) →
    gtsAssemble board tag block = .ok ([], [])

/-- R168, R170 (a), (b): the time records of a successful run are the completed ones, in the order their falling edges
stand in the block, with those edges' fall fields, followed by the rising-only ones in strictly ascending order of
(channel_id, hit_id); together they are the rising edges of the block, one record for each. -/
def Obligations.OneTimeRecordPerRisingEdge : Prop :=
  ∀ (board : BoardId) (tag : Option GtsTag) (block : List Instr) (timeOut : List MergedHitTime)
    (ampOut : List MergedHitAmplitude), gtsAssemble board tag block = .ok (timeOut, ampOut) →
    timeOut.length = block.countP isRisingEdge ∧
    (timeOut.map fun m => (m.channelId, m.hitId, m.riseTime, m.riseTagId)).Perm (block.filterMap risingEdge) ∧
    ∃ completed risingOnly, timeOut = completed ++ risingOnly ∧
      (completed.map fun m => (m.channelId, m.hitId, m.fallTime, m.fallTagId)) =
        (block.filterMap fallingEdge).map (fun (c, h, x, t) => (c, h, some x, some t)) ∧
      (∀ m ∈ risingOnly, m.fallTime = none ∧ m.fallTagId = none ∧ m.fallGtsTag = none) ∧
      risingOnly.Pairwise (fun a b => a.channelId.toNat < b.channelId.toNat ∨
        (a.channelId = b.channelId ∧ a.hitId.toNat < b.hitId.toNat))

/-- R168, R170 (c), (e): the amplitude records of a successful run stand in ascending order of channel_id, one for each
channel that has a HitAmplitude word in the block and for no other. -/
def Obligations.OneAmplitudeRecordPerChannel : Prop :=
  ∀ (board : BoardId) (tag : Option GtsTag) (block : List Instr) (timeOut : List MergedHitTime)
    (ampOut : List MergedHitAmplitude), gtsAssemble board tag block = .ok (timeOut, ampOut) →
    (ampOut.map (fun m => m.channelId.toNat)).Pairwise (· < ·) ∧
    ∀ c : ChannelId, c ∈ ampOut.map MergedHitAmplitude.channelId ↔ ∃ w ∈ block, amplitudeChannel w = some c

/-- R161, R170 (d): every tag that a record of a successful run stores is the run's tag operand. -/
def Obligations.RecordsCarryTheRunsTag : Prop :=
  ∀ (board : BoardId) (tag : Option GtsTag) (block : List Instr) (timeOut : List MergedHitTime)
    (ampOut : List MergedHitAmplitude), gtsAssemble board tag block = .ok (timeOut, ampOut) →
    (∀ m ∈ timeOut, m.riseGtsTag = tag ∧ (m.fallTime ≠ none → m.fallGtsTag = tag)) ∧
    (∀ m ∈ ampOut, (m.lgAmplitude ≠ none → m.lgGtsTag = tag) ∧ (m.hgAmplitude ≠ none → m.hgGtsTag = tag))

/-- R170 (f): if every hit word of the block carries the low two bits of one tag, then so do both tag ids of every
completed record. -/
def Obligations.CompletedRecordsShareTagBits : Prop :=
  ∀ (board : BoardId) (g : GtsTag) (block : List Instr) (timeOut : List MergedHitTime)
    (ampOut : List MergedHitAmplitude),
    (∀ w ∈ block, ∀ t, hitTagId w = some t → t.toNat = g.toNat % 4) →
    gtsAssemble board (some g) block = .ok (timeOut, ampOut) →
    ∀ m ∈ timeOut, m.fallTime ≠ none →
      m.riseTagId.toNat = g.toNat % 4 ∧ m.fallTagId = some m.riseTagId

/-! ### The FEB Assembler -/

/-- R195: a GTSHeader joins the current window and sets its tag, whatever the window held. -/
def Obligations.GtsHeaderSetsCurrentTag : Prop :=
  ∀ (g : GtsTag) (r : FARegs),
    faVisit (.gtsHeader g) r =
      .ok { r with currentWords := r.currentWords ++ [.gtsHeader g], currentTag := some g }

/-- R196, R197: a HitTime or HitAmplitude goes to the current window if its tag_id is the current tag modulo 4, else to
the previous window if it is the previous tag modulo 4, else raises HitTagMismatch; an unset tag matches nothing. -/
def Obligations.HitIsRoutedByTagBits : Prop :=
  ∀ (w : Instr) (t : TagId) (r : FARegs), hitTagId w = some t →
    ((∃ g, r.currentTag = some g ∧ t.toNat = g.toNat % 4) →
      faVisit w r = .ok { r with currentWords := r.currentWords ++ [w] }) ∧
    ((∀ g, r.currentTag = some g → t.toNat ≠ g.toNat % 4) →
      (∃ g, r.previousTag = some g ∧ t.toNat = g.toNat % 4) →
      faVisit w r = .ok { r with previousWords := r.previousWords ++ [w] }) ∧
    ((∀ g, r.currentTag = some g → t.toNat ≠ g.toNat % 4) →
      (∀ g, r.previousTag = some g → t.toNat ≠ g.toNat % 4) →
      faVisit w r = .error (.hitTagMismatch t r.currentTag r.previousTag))

/-- R199: a GTSTrailer1 whose 28-bit tag is the current tag joins the current window; any other, and every one while no
tag is set, raises TrailerTagMismatch. -/
def Obligations.Trailer1ChecksTheTag : Prop :=
  ∀ (g : GtsTag) (r : FARegs),
    (r.currentTag = some g →
      faVisit (.gtsTrailer1 g) r = .ok { r with currentWords := r.currentWords ++ [.gtsTrailer1 g] }) ∧
    (r.currentTag ≠ some g → faVisit (.gtsTrailer1 g) r = .error (.trailerTagMismatch g r.currentTag))

/-- R203, R204: a GTSTrailer2 on an empty current window raises TrailerWithoutHeader; else it joins the window, records
(current tag, gts_time), flushes the previous window (nothing if it is empty, else the GTS Assembler's outputs are
appended or its error raised) and shifts current to previous, words and tag both cleared. -/
def Obligations.Trailer2ClosesInterval : Prop :=
  ∀ (d o f : BitVec 1) (time : BitVec 20) (u : BitVec 5) (r : FARegs),
    (r.currentWords = [] → faVisit (.gtsTrailer2 d o f time u) r = .error .trailerWithoutHeader) ∧
    (∀ g, r.currentWords ≠ [] → r.currentTag = some g →
      (r.previousWords = [] →
        faVisit (.gtsTrailer2 d o f time u) r = .ok { r with
          gtsTimeMap := r.gtsTimeMap ++ [(g, time)],
          previousWords := r.currentWords ++ [.gtsTrailer2 d o f time u], previousTag := some g,
          currentWords := [], currentTag := none }) ∧
      (∀ timeOut ampOut, r.previousWords ≠ [] →
        gtsAssemble r.boardId r.previousTag r.previousWords = .ok (timeOut, ampOut) →
        faVisit (.gtsTrailer2 d o f time u) r = .ok { r with
          gtsTimeMap := r.gtsTimeMap ++ [(g, time)],
          hitTimes := r.hitTimes ++ timeOut, hitAmplitudes := r.hitAmplitudes ++ ampOut,
          previousWords := r.currentWords ++ [.gtsTrailer2 d o f time u], previousTag := some g,
          currentWords := [], currentTag := none }) ∧
      (∀ e, r.previousWords ≠ [] → gtsAssemble r.boardId r.previousTag r.previousWords = .error e →
        faVisit (.gtsTrailer2 d o f time u) r = .error e))

/-- R205 to R208: GateTime, HoldTime and GateHeader met in the walk, and every other kind without a rule of its own,
change no register and raise nothing. -/
def Obligations.UnroutedWordsChangeNothing : Prop :=
  ∀ r : FARegs,
    (∀ t, faVisit (.gateTime t) r = .ok r) ∧ (∀ b h t u, faVisit (.holdTime b h t u) r = .ok r) ∧
    (∀ b t n, faVisit (.gateHeaderType0 b t n) r = .ok r) ∧ (∀ b t u, faVisit (.gateHeaderType1 b t u) r = .ok r) ∧
    (∀ b t n u, faVisit (.gateTrailer b t n u) r = .ok r) ∧ (∀ b n c, faVisit (.eventDone b n c) r = .ok r) ∧
    (∀ p, faVisit (.housekeeping p) r = .ok r) ∧ (∀ p, faVisit (.special p) r = .ok r) ∧
    (∀ b f1 f2 f3 f4 f5 n, faVisit (.febDataPacketTrailer b f1 f2 f3 f4 f5 n) r = .ok r) ∧
    (∀ y t n, faVisit (.ocbPacketHeader y t n) r = .ok r) ∧ (∀ y t e u, faVisit (.ocbPacketTrailer y t e u) r = .ok r)

/-- R212: a window that holds words has a tag: so it is when a walk begins, and every visited word keeps it. -/
def Obligations.WindowsWithWordsHaveTags : Prop :=
  (∀ board status S, (faBegin board status S).windowsWf) ∧
  (∀ w r r', FARegs.windowsWf r → faVisit w r = .ok r' → r'.windowsWf)

/-- R217, R194: an empty slice raises FebPacketEmpty, a non-empty one that does not begin with a GateHeader of either type or
does not end with a FEBDataPacketTrailer raises FebEnvelopeViolation, and no other slice raises either; a slice of just these two words gives a packet with empty vectors. -/
def Obligations.SliceContractIsChecked : Prop :=
  febAssemble [] = .error .febPacketEmpty ∧
  (∀ S : List Instr, S ≠ [] →
    (S.head?.bind gateHeaderBoard = none ∨ S.getLast?.bind trailerStatus = none) →
    febAssemble S = .error .febEnvelopeViolation) ∧
  (∀ (S : List Instr) (b : BoardId) (z : TrailerStatus),
    S.head?.bind gateHeaderBoard = some b → S.getLast?.bind trailerStatus = some z →
    febAssemble S ≠ .error .febPacketEmpty ∧ febAssemble S ≠ .error .febEnvelopeViolation) ∧
  (∀ (a z : Instr) (b : BoardId) (st : TrailerStatus), gateHeaderBoard a = some b → trailerStatus z = some st →
    febAssemble [a, z] =
      .ok { boardId := b, holdTime := none, gtsTimeMap := [], hitTimes := [], hitAmplitudes := [], status := st })

/-- R191 to R193, R214: a packet has the board id of the slice's first word, the hold time of a HoldTime at index 1 of a
slice of at least three words and none otherwise, and the six status items of the last word. -/
def Obligations.PacketCapturesFirstSecondLast : Prop :=
  ∀ (S : List Instr) (p : FEBPacket), febAssemble S = .ok p →
    S.head?.bind gateHeaderBoard = some p.boardId ∧ S.getLast?.bind trailerStatus = some p.status ∧
    (∀ b h t u, 3 ≤ S.length → memRead S 1 = some (.holdTime b h t u) → p.holdTime = some t) ∧
    ((∀ b h t u, memRead S 1 ≠ some (.holdTime b h t u)) → p.holdTime = none)

/-- R216 (d), R203: the times of a packet's GTS-time map are the gts_time values of the GTSTrailer2 words in the slice's
walk, in their order. -/
def Obligations.TimeMapFollowsTrailers : Prop :=
  ∀ (S : List Instr) (p : FEBPacket), febAssemble S = .ok p →
    p.gtsTimeMap.map Prod.snd = (innerWords S).filterMap trailer2Time

/-- R216 (a) with R170 (b): no rising edge is lost between the windows: a packet has one time record for each rising edge
in the slice's walk. -/
def Obligations.PacketKeepsEveryRisingEdge : Prop :=
  ∀ (S : List Instr) (p : FEBPacket), febAssemble S = .ok p →
    p.hitTimes.length = (innerWords S).countP isRisingEdge

/-- R211, R213: at the end of a slice, whatever the windows hold, the previous window is assembled under the previous tag
and then the current one under the current tag, their records appended in that order, and no pair is recorded; the packet
is that of the registers after it. So an interval that a GTSHeader opened and no GTSTrailer2 closed before the end of the
slice is assembled all the same, under its tag. -/
def Obligations.UnterminatedIntervalIsKept : Prop :=
  (∀ r : FARegs, faEnd r =
    match gtsAssemble r.boardId r.previousTag r.previousWords with
    | .error e => .error e
    | .ok (time1, amp1) =>
      match gtsAssemble r.boardId r.currentTag r.currentWords with
      | .error e => .error e
      | .ok (time2, amp2) =>
        .ok { r with
          hitTimes := r.hitTimes ++ time1 ++ time2, hitAmplitudes := r.hitAmplitudes ++ amp1 ++ amp2 }) ∧
  (∀ (S : List Instr) (b : BoardId) (st : TrailerStatus) (r : FARegs),
    S.head?.bind gateHeaderBoard = some b → S.getLast?.bind trailerStatus = some st →
    walk faVisit (innerWords S) (faBegin b st S) = .ok r →
    (∀ e, faEnd r = .error e → febAssemble S = .error e) ∧
    (∀ r', faEnd r = .ok r' → febAssemble S =
      .ok { boardId := r'.boardId, holdTime := r'.holdTime, gtsTimeMap := r'.gtsTimeMap, hitTimes := r'.hitTimes,
            hitAmplitudes := r'.hitAmplitudes, status := r'.status })) ∧
  ∀ (a z : Instr) (b : BoardId) (st : TrailerStatus) (g : GtsTag) (hits : List Instr),
    gateHeaderBoard a = some b → trailerStatus z = some st →
    (∀ w ∈ hits, ∃ t, hitTagId w = some t ∧ t.toNat = g.toNat % 4) →
    febAssemble (a :: (.gtsHeader g :: hits ++ [z])) =
      match gtsAssemble b (some g) (.gtsHeader g :: hits) with
      | .error e => .error e
      | .ok (timeOut, ampOut) =>
        .ok { boardId := b, holdTime := none, gtsTimeMap := [], hitTimes := timeOut, hitAmplitudes := ampOut,
              status := st }

/-! ### The OCB Assembler -/

/-- R241 to R245, R254 to R257: GateHeader.type1, GateTime and HoldTime count one word; GTSHeader counts the GTS counter
first and a word only if it then exceeds 2; GTSTrailer1, GTSTrailer2, HitTime and HitAmplitude count a word only if the
GTS counter exceeds 2. Nothing else changes but the walk index. -/
def Obligations.WordsAreCounted : Prop :=
  ∀ (B : List Instr) (r : OARegs),
    (∀ b t u, oaVisit B (.gateHeaderType1 b t u) r = .ok { r with fwc := r.fwc + 1, i := r.i + 1 }) ∧
    (∀ t, oaVisit B (.gateTime t) r = .ok { r with fwc := r.fwc + 1, i := r.i + 1 }) ∧
    (∀ b h t u, oaVisit B (.holdTime b h t u) r = .ok { r with fwc := r.fwc + 1, i := r.i + 1 }) ∧
    (∀ g, oaVisit B (.gtsHeader g) r = .ok { r with
      gtsc := r.gtsc + 1, fwc := if r.gtsc + 1 > 2 then r.fwc + 1 else r.fwc, i := r.i + 1 }) ∧
    (∀ g, oaVisit B (.gtsTrailer1 g) r = .ok { r with
      fwc := if r.gtsc > 2 then r.fwc + 1 else r.fwc, i := r.i + 1 }) ∧
    (∀ d o f t u, oaVisit B (.gtsTrailer2 d o f t u) r = .ok { r with
      fwc := if r.gtsc > 2 then r.fwc + 1 else r.fwc, i := r.i + 1 }) ∧
    (∀ c h t e x u, oaVisit B (.hitTime c h t e x u) r = .ok { r with
      fwc := if r.gtsc > 2 then r.fwc + 1 else r.fwc, i := r.i + 1 }) ∧
    (∀ c h t a x, oaVisit B (.hitAmplitude c h t a x) r = .ok { r with
      fwc := if r.gtsc > 2 then r.fwc + 1 else r.fwc, i := r.i + 1 })

/-- R240: a GateHeader of type 0 resets both counters, records its index and board id, and counts one if the word after
it is a GateHeader of type 1. -/
def Obligations.GateHeaderResetsCounters : Prop :=
  ∀ (B : List Instr) (r : OARegs) (b : BoardId) (t : BitVec 3) (n : BitVec 16),
    ((∃ b' t' u, memRead B (r.i + 1) = some (.gateHeaderType1 b' t' u)) →
      oaVisit B (.gateHeaderType0 b t n) r =
        .ok { r with fwc := 1, gtsc := 0, ghi := some r.i, febBoard := b, i := r.i + 1 }) ∧
    ((∀ b' t' u, memRead B (r.i + 1) ≠ some (.gateHeaderType1 b' t' u)) →
      oaVisit B (.gateHeaderType0 b t n) r =
        .ok { r with fwc := 0, gtsc := 0, ghi := some r.i, febBoard := b, i := r.i + 1 })

/-- R246: an EventDone whose word_count differs from the counter warns with both numbers; it is not counted. -/
def Obligations.EventDoneCompares : Prop :=
  ∀ (B : List Instr) (r : OARegs) (b : BoardId) (n : BitVec 4) (c : BitVec 16),
    (c.toNat = r.fwc → oaVisit B (.eventDone b n c) r = .ok { r with i := r.i + 1 }) ∧
    (c.toNat ≠ r.fwc → oaVisit B (.eventDone b n c) r =
      .ok { r with warnings := r.warnings ++ [.wordCountMismatch r.i c.toNat r.fwc], i := r.i + 1 })

/-- R250: a FEBDataPacketTrailer is counted; with no gate header recorded it raises FebTrailerWithoutHeader; a board id
of 9 or more, and then a filled slot, is skipped with a warning; else the slice from the recorded header to the trailer
is assembled and its packet fills the slot of the recorded board id, or its error is raised. -/
def Obligations.FebTrailerFillsSlot : Prop :=
  ∀ (B : List Instr) (r : OARegs) (b : BoardId) (f1 f2 f3 f4 f5 : BitVec 1) (n : BitVec 15),
    (r.ghi = none →
      oaVisit B (.febDataPacketTrailer b f1 f2 f3 f4 f5 n) r = .error (.febTrailerWithoutHeader r.i)) ∧
    (∀ g, r.ghi = some g →
      (9 ≤ r.febBoard.toNat → oaVisit B (.febDataPacketTrailer b f1 f2 f3 f4 f5 n) r = .ok { r with
        fwc := r.fwc + 1, warnings := r.warnings ++ [.invalidBoardId r.i r.febBoard], i := r.i + 1 }) ∧
      (r.febBoard.toNat < 9 → r.event.slot r.febBoard.toNat ≠ none →
        oaVisit B (.febDataPacketTrailer b f1 f2 f3 f4 f5 n) r = .ok { r with
          fwc := r.fwc + 1, warnings := r.warnings ++ [.duplicateFeb r.i r.febBoard], i := r.i + 1 }) ∧
      (r.febBoard.toNat < 9 → r.event.slot r.febBoard.toNat = none →
        (∀ p, febAssemble (slice B g r.i) = .ok p →
          ∃ ev, oaVisit B (.febDataPacketTrailer b f1 f2 f3 f4 f5 n) r =
              .ok { r with fwc := r.fwc + 1, event := ev, i := r.i + 1 } ∧
            ev.slot r.febBoard.toNat = some p ∧
            (∀ k, k ≠ r.febBoard.toNat → ev.slot k = r.event.slot k) ∧
            ev.eventNumber = r.event.eventNumber ∧ ev.gateType = r.event.gateType ∧
            ev.gateTag = r.event.gateTag ∧ ev.errors = r.event.errors) ∧
        (∀ e, febAssemble (slice B g r.i) = .error e →
          oaVisit B (.febDataPacketTrailer b f1 f2 f3 f4 f5 n) r = .error e)))

/-- R249: GateTrailer, Housekeeping and Special, and an OCB header or trailer inside the walk, raise the warning
W_UNEXPECTED_WORD with the index and the word id; no counter changes. -/
def Obligations.UnexpectedWordsWarn : Prop :=
  ∀ (B : List Instr) (r : OARegs),
    (∀ b t n u, oaVisit B (.gateTrailer b t n u) r =
      .ok { r with warnings := r.warnings ++ [.unexpectedWord r.i 0x6#4], i := r.i + 1 }) ∧
    (∀ p, oaVisit B (.housekeeping p) r =
      .ok { r with warnings := r.warnings ++ [.unexpectedWord r.i 0xE#4], i := r.i + 1 }) ∧
    (∀ p, oaVisit B (.special p) r =
      .ok { r with warnings := r.warnings ++ [.unexpectedWord r.i 0xF#4], i := r.i + 1 }) ∧
    (∀ y t n, oaVisit B (.ocbPacketHeader y t n) r =
      .ok { r with warnings := r.warnings ++ [.unexpectedWord r.i 0x8#4], i := r.i + 1 }) ∧
    (∀ y t e u, oaVisit B (.ocbPacketTrailer y t e u) r =
      .ok { r with warnings := r.warnings ++ [.unexpectedWord r.i 0x9#4], i := r.i + 1 })

/-- R231, R232, R234: an envelope whose header and trailer differ in gate_type or gate_tag raises OCBEnvelopeMismatch
with both pairs, whatever its interior; else the event has the header's event_number, gate_type and gate_tag and the
trailer's errors; a list that does not begin with a header and end with a trailer raises OcbEnvelopeViolation. -/
def Obligations.EnvelopeIsCheckedFirst : Prop :=
  (∀ (hType tType : BitVec 3) (hTag tTag : BitVec 2) (number : BitVec 23) (errors : BitVec 16)
      (unused : BitVec 7) (mid : List Instr),
    ((hType ≠ tType ∨ hTag ≠ tTag) →
      ocbAssemble (.ocbPacketHeader hType hTag number :: (mid ++ [.ocbPacketTrailer tType tTag errors unused])) =
        .error (.ocbEnvelopeMismatch hType hTag tType tTag)) ∧
    (∀ ev warnings,
      ocbAssemble (.ocbPacketHeader hType hTag number :: (mid ++ [.ocbPacketTrailer tType tTag errors unused])) =
        .ok (ev, warnings) →
      ev.eventNumber = number ∧ ev.gateType = hType ∧ ev.gateTag = hTag ∧ ev.errors = errors)) ∧
  (∀ B : List Instr,
    (∀ hType hTag number, B.head? ≠ some (.ocbPacketHeader hType hTag number)) ∨
    (∀ tType tTag errors unused, B.getLast? ≠ some (.ocbPacketTrailer tType tTag errors unused)) →
    ocbAssemble B = .error .ocbEnvelopeViolation)

/-- R244, R357: GTS-level words of which the GTS counter takes in no more than two GTSHeaders leave the FEB-word counter
as it is: the first two intervals after a type-0 GateHeader are not counted. -/
def Obligations.FirstTwoIntervalsAreNotCounted : Prop :=
  ∀ (B ws : List Instr) (r : OARegs), (∀ w ∈ ws, isGtsLevel w = true) → r.gtsc + ws.countP isGtsHeader ≤ 2 →
    walk (oaVisit B) ws r = .ok { r with gtsc := r.gtsc + ws.countP isGtsHeader, i := r.i + ws.length }

/-! ### Whole envelopes -/

/-- An envelope supplied as words to a block that is outside any envelope, not faulted and with an unbounded buffer, is
one run of the OCB Assembler on its decoded words: after its last word the block has emitted exactly that run's event
and warnings, or taken its fatal error at the trailer's position (R274, R278, R306). -/
def Obligations.EnvelopeRunsTheAssembler : Prop :=
  ∀ (s : State) (h z : Word) (mid : List Word) (rest : List InputItem)
    (hType tType : BitVec 3) (hTag tTag : BitVec 2) (number : BitVec 23) (errors : BitVec 16)
    (unused : BitVec 7), s.fault = none → s.insideOcb = false → s.params.maxOcbWords = none →
    decode h = .ocbPacketHeader hType hTag number → decode z = .ocbPacketTrailer tType tTag errors unused →
    (∀ w ∈ mid, (decode w).interior = true) →
    s.input = .word h :: (mid.map .word ++ .word z :: rest) →
    (∀ ev warnings, ocbAssemble (decode h :: (mid.map decode ++ [decode z])) = .ok (ev, warnings) →
      Sys2Proof.core.run (mid.length + 2) s = .next { s with
        input := rest, pos := s.pos + mid.length + 2, buf := [], insideOcb := false,
        out := s.out ++ [.event ev warnings], oa := OARegs.start, fa := FARegs.start, ga := GARegs.start }) ∧
    (∀ e, ocbAssemble (decode h :: (mid.map decode ++ [decode z])) = .error e →
      Sys2Proof.core.run (mid.length + 2) s = .next { s with
        input := rest, pos := s.pos + mid.length + 1, buf := [], insideOcb := false,
        fault := some { error := e, pos := s.pos + mid.length + 1 },
        out := s.out ++ [.fault { error := e, pos := s.pos + mid.length + 1 }],
        oa := OARegs.start, fa := FARegs.start, ga := GARegs.start })

/-- R278: the same packet twice gives two equal Event items, event and warnings, whatever came before, in a block with an
unbounded buffer. -/
def Obligations.SamePacketTwiceGivesEqualEvents : Prop :=
  ∀ (s : State) (h z : Word) (mid : List Word) (rest : List InputItem)
    (hType tType : BitVec 3) (hTag tTag : BitVec 2) (number : BitVec 23) (errors : BitVec 16)
    (unused : BitVec 7) (ev : OCBEvent) (warnings : List Warning),
    s.fault = none → s.insideOcb = false → s.params.maxOcbWords = none →
    decode h = .ocbPacketHeader hType hTag number → decode z = .ocbPacketTrailer tType tTag errors unused →
    (∀ w ∈ mid, (decode w).interior = true) →
    ocbAssemble (decode h :: (mid.map decode ++ [decode z])) = .ok (ev, warnings) →
    s.input = .word h :: (mid.map .word ++ .word z :: .word h :: (mid.map .word ++ .word z :: rest)) →
    ∃ t : State, Sys2Proof.core.run ((mid.length + 2) + (mid.length + 2)) s = .next t ∧
      t.out = s.out ++ [.event ev warnings, .event ev warnings] ∧ t.fault = none ∧ t.input = rest

/-! ### The views of the consumer and the host's side -/

/-- R117, R37: bits 0 to 13 of `errors` name the errors of FEB 0 to 13, bit 14 the gate close error, bit 15 the gate open
timeout, and `errors[k]` is bit `k` of the bitmap. -/
def Obligations.ErrorBitsNameConditions : Prop :=
  (∀ k : Fin 14, trailerErrorBit ⟨k.val, by omega⟩ = .febError k) ∧
  trailerErrorBit 14 = .gateCloseError ∧ trailerErrorBit 15 = .gateOpenTimeout ∧
  ∀ (ev : OCBEvent) (k : Fin 16), ev.errorBit k = decide (ev.errors.toNat / 2 ^ k.val % 2 = 1)

/-- R36, R37: `lookup(tag)` is the time of the last pair with that tag, and filling an empty slot adds one to
`fired_feb_count`. -/
def Obligations.ConsumerViewsOfTheEvent : Prop :=
  (∀ (p : FEBPacket) (before after : List (GtsTag × BitVec 20)) (g : GtsTag) (time : BitVec 20),
    p.gtsTimeMap = before ++ (g, time) :: after → (∀ pair ∈ after, pair.1 ≠ g) → p.lookup g = some time) ∧
  (∀ (ev : OCBEvent) (b : Nat) (p : FEBPacket), b < 9 → ev.slot b = none →
    (ev.fill b p).firedFebCount = ev.firedFebCount + 1)

/-- R61, R63: the word of four bytes in either byte order, and one word for each whole group of four bytes; the formulas
are general knowledge by R61's own mark (log 12). -/
def Obligations.BytesMakeWords : Prop :=
  (∀ b0 b1 b2 b3 : BitVec 8,
    (wordOfBytes .little b0 b1 b2 b3).toNat =
      b0.toNat + b1.toNat * 2 ^ 8 + b2.toNat * 2 ^ 16 + b3.toNat * 2 ^ 24 ∧
    (wordOfBytes .big b0 b1 b2 b3).toNat =
      b0.toNat * 2 ^ 24 + b1.toNat * 2 ^ 16 + b2.toNat * 2 ^ 8 + b3.toNat) ∧
  (∀ (order : ByteOrder) (bytes : List (BitVec 8)), (wordsOfBytes order bytes).length = bytes.length / 4)
end

