-- ==== Sys2Proof/Laws/Decode.lean ====
section
/-! SUPPORT. What the decoder does, said once: the kind that each word id decodes to, and how a field of a word depends
on its bits. -/

namespace Sys2Proof

/-- A field of a word has a value if its bits are those of the value. -/
theorem field_eq (raw : Word) (start length : Nat) (value : BitVec length)
    (h : ∀ k, k < length → raw.getLsbD (start + k) = value.getLsbD k) : field raw start length = value := by
  apply BitVec.eq_of_getLsbD_eq
  intro k hk
  simp [field, hk, h k hk]

/-- Two words that agree on the bits of a field agree on the field. -/
theorem field_congr (a b : Word) (start length : Nat)
    (h : ∀ k, k < length → a.getLsbD (start + k) = b.getLsbD (start + k)) :
    field a start length = field b start length := by
  apply BitVec.eq_of_getLsbD_eq
  intro k hk
  simp [field, hk, h k hk]

/-- `header_type` is bit 19 (R93). -/
theorem headerType_eq_zero (raw : Word) : field raw 19 1 = 0#1 ↔ raw.getLsbD 19 = false := by
  constructor
  · intro h
    have := congrArg (fun v => v.getLsbD 0) h
    simpa [field] using this
  · intro h
    apply BitVec.eq_of_getLsbD_eq
    intro k hk
    interval_cases k
    simpa [field] using h

/-- The kinds by their ids (R130): every word is of exactly one of these forms. -/
theorem decode_cases (raw : Word) :
    (idOf raw = 0x0#4 ∧ raw.getLsbD 19 = false ∧
      decode raw = .gateHeaderType0 (field raw 20 8) (field raw 16 3) (field raw 0 16)) ∨
    (idOf raw = 0x0#4 ∧ raw.getLsbD 19 = true ∧ decode raw = .gateHeaderType1 (field raw 20 8) (field raw 0 11) (field raw 11 8)) ∨
    (idOf raw = 0x1#4 ∧ decode raw = decodeGtsHeader raw) ∨
    (idOf raw = 0x2#4 ∧ decode raw = decodeHitTime raw) ∨
    (idOf raw = 0x3#4 ∧ decode raw = decodeHitAmplitude raw) ∨
    (idOf raw = 0x4#4 ∧ decode raw = decodeGtsTrailer1 raw) ∨
    (idOf raw = 0x5#4 ∧ decode raw = decodeGtsTrailer2 raw) ∨
    (idOf raw = 0x6#4 ∧ decode raw = decodeGateTrailer raw) ∨
    (idOf raw = 0x7#4 ∧ decode raw = decodeGateTime raw) ∨
    (idOf raw = 0x8#4 ∧ decode raw = decodeOcbPacketHeader raw) ∨
    (idOf raw = 0x9#4 ∧ decode raw = decodeOcbPacketTrailer raw) ∨
    (idOf raw = 0xA#4 ∧ decode raw = .reserved0xA (field raw 0 28)) ∨
    (idOf raw = 0xB#4 ∧ decode raw = decodeHoldTime raw) ∨
    (idOf raw = 0xC#4 ∧ decode raw = decodeEventDone raw) ∨
    (idOf raw = 0xD#4 ∧ decode raw = decodeFebDataPacketTrailer raw) ∨
    (idOf raw = 0xE#4 ∧ decode raw = decodeHousekeeping raw) ∨
    (idOf raw = 0xF#4 ∧ decode raw = decodeSpecial raw) := by
  have hlt : (idOf raw).toNat < 16 := (idOf raw).isLt
  have hb : ∀ n, n < 16 → (idOf raw).toNat = n → idOf raw = BitVec.ofNat 4 n := by
    intro n hn h
    apply BitVec.eq_of_toNat_eq
    simp [h]
    omega
  unfold decode
  generalize (idOf raw).toNat = k at *
  have hid := hb k hlt rfl
  rw [hid]
  interval_cases k <;> simp only [] <;> try (simp; done)
  by_cases h19 : field raw 19 1 = 0#1
  · have := (headerType_eq_zero raw).mp h19
    simpa [decodeGateHeader, h19] using this
  · have h := h19
    rw [headerType_eq_zero] at h
    simpa [decodeGateHeader, h19] using h

/-- The decoded kind has the word's id (R130). -/
theorem wordId_decode (raw : Word) : (decode raw).wordId = idOf raw := by
  rcases decode_cases raw with h | h | h | h | h | h | h | h | h | h | h | h | h | h | h | h | h <;>
    simp only [h] <;> rfl

/-- An encoded word has the id of its kind (R113). -/
theorem idOf_encode (i : Instr) : idOf (encode i) = i.wordId := by
  apply BitVec.eq_of_getLsbD_eq
  intro k hk
  cases i <;> simp only [idOf, field, encode, encodePayload, place, Instr.wordId, BitVec.getLsbD_extractLsb',
      BitVec.getLsbD_or, BitVec.getLsbD_shiftLeft, BitVec.getLsbD_setWidth] <;>
    interval_cases k <;> simp

/-! ### The raw word and the unused bits (R31, R109) -/

/-- The raw word of an instruction has the id of its kind (R90). -/
theorem idOf_raw (i : Instr) : idOf i.raw = i.wordId := by
  apply BitVec.eq_of_getLsbD_eq
  intro k hk
  cases i <;> simp only [Instr.raw, unusedPayload, idOf, field, encode, encodePayload, place, Instr.wordId,
      BitVec.getLsbD_extractLsb', BitVec.getLsbD_or, BitVec.getLsbD_shiftLeft, BitVec.getLsbD_setWidth] <;>
    interval_cases k <;> simp

/-- The canonical encoding is the raw word of the instruction with its unused bits cleared (R113). -/
theorem raw_clearUnused (i : Instr) : i.clearUnused.raw = encode i := by
  cases i <;> simp [Instr.raw, Instr.clearUnused, unusedPayload, encode, encodePayload, Instr.wordId, place]

@[simp] theorem clearUnused_wordId (i : Instr) : i.clearUnused.wordId = i.wordId := by cases i <;> rfl

@[simp] theorem clearUnused_interior (i : Instr) : i.clearUnused.interior = i.interior := by cases i <;> rfl

@[simp] theorem clearUnused_wellFormed (i : Instr) : i.clearUnused.wellFormed = i.wellFormed := by
  unfold Instr.wellFormed; rw [clearUnused_wordId]

@[simp] theorem clearUnused_clearUnused (i : Instr) : i.clearUnused.clearUnused = i.clearUnused := by cases i <;> rfl

end Sys2Proof
end

