-- ==== Sys2Proof/Laws/State.lean ====
section
/-! SUPPORT. One lemma for each field and each update of the state and of the working registers, all true by
definition, so that no proof unfolds a record update. -/

namespace Sys2Proof.Machine

/-! ### The state -/

@[simp] theorem State.consume_params (s : State) : s.consume.params = s.params := rfl
@[simp] theorem State.consume_input (s : State) : s.consume.input = s.input.tail := rfl
@[simp] theorem State.consume_pos (s : State) : s.consume.pos = s.pos := rfl
@[simp] theorem State.consume_buf (s : State) : s.consume.buf = s.buf := rfl
@[simp] theorem State.consume_insideOcb (s : State) : s.consume.insideOcb = s.insideOcb := rfl
@[simp] theorem State.consume_fault (s : State) : s.consume.fault = s.fault := rfl
@[simp] theorem State.consume_oa (s : State) : s.consume.oa = s.oa := rfl
@[simp] theorem State.consume_fa (s : State) : s.consume.fa = s.fa := rfl
@[simp] theorem State.consume_ga (s : State) : s.consume.ga = s.ga := rfl
@[simp] theorem State.consume_out (s : State) : s.consume.out = s.out := rfl

@[simp] theorem State.withNextItem_params (s : State) (x : InputItem) : (s.withNextItem x).params = s.params := rfl
@[simp] theorem State.withNextItem_input (s : State) (x : InputItem) : (s.withNextItem x).input = x :: s.input.tail := rfl
@[simp] theorem State.withNextItem_pos (s : State) (x : InputItem) : (s.withNextItem x).pos = s.pos := rfl
@[simp] theorem State.withNextItem_buf (s : State) (x : InputItem) : (s.withNextItem x).buf = s.buf := rfl
@[simp] theorem State.withNextItem_insideOcb (s : State) (x : InputItem) : (s.withNextItem x).insideOcb = s.insideOcb := rfl
@[simp] theorem State.withNextItem_fault (s : State) (x : InputItem) : (s.withNextItem x).fault = s.fault := rfl
@[simp] theorem State.withNextItem_oa (s : State) (x : InputItem) : (s.withNextItem x).oa = s.oa := rfl
@[simp] theorem State.withNextItem_fa (s : State) (x : InputItem) : (s.withNextItem x).fa = s.fa := rfl
@[simp] theorem State.withNextItem_ga (s : State) (x : InputItem) : (s.withNextItem x).ga = s.ga := rfl
@[simp] theorem State.withNextItem_out (s : State) (x : InputItem) : (s.withNextItem x).out = s.out := rfl

@[simp] theorem State.emit_params (s : State) (x : OutItem) : (s.emit x).params = s.params := rfl
@[simp] theorem State.emit_input (s : State) (x : OutItem) : (s.emit x).input = s.input := rfl
@[simp] theorem State.emit_pos (s : State) (x : OutItem) : (s.emit x).pos = s.pos := rfl
@[simp] theorem State.emit_buf (s : State) (x : OutItem) : (s.emit x).buf = s.buf := rfl
@[simp] theorem State.emit_insideOcb (s : State) (x : OutItem) : (s.emit x).insideOcb = s.insideOcb := rfl
@[simp] theorem State.emit_fault (s : State) (x : OutItem) : (s.emit x).fault = s.fault := rfl
@[simp] theorem State.emit_oa (s : State) (x : OutItem) : (s.emit x).oa = s.oa := rfl
@[simp] theorem State.emit_fa (s : State) (x : OutItem) : (s.emit x).fa = s.fa := rfl
@[simp] theorem State.emit_ga (s : State) (x : OutItem) : (s.emit x).ga = s.ga := rfl
@[simp] theorem State.emit_out (s : State) (x : OutItem) : (s.emit x).out = s.out ++ [x] := rfl

@[simp] theorem State.advance_params (s : State) : s.advance.params = s.params := rfl
@[simp] theorem State.advance_input (s : State) : s.advance.input = s.input := rfl
@[simp] theorem State.advance_pos (s : State) : s.advance.pos = s.pos + 1 := rfl
@[simp] theorem State.advance_buf (s : State) : s.advance.buf = s.buf := rfl
@[simp] theorem State.advance_insideOcb (s : State) : s.advance.insideOcb = s.insideOcb := rfl
@[simp] theorem State.advance_fault (s : State) : s.advance.fault = s.fault := rfl
@[simp] theorem State.advance_oa (s : State) : s.advance.oa = s.oa := rfl
@[simp] theorem State.advance_fa (s : State) : s.advance.fa = s.fa := rfl
@[simp] theorem State.advance_ga (s : State) : s.advance.ga = s.ga := rfl
@[simp] theorem State.advance_out (s : State) : s.advance.out = s.out := rfl

@[simp] theorem State.endRuns_params (s : State) : s.endRuns.params = s.params := rfl
@[simp] theorem State.endRuns_input (s : State) : s.endRuns.input = s.input := rfl
@[simp] theorem State.endRuns_pos (s : State) : s.endRuns.pos = s.pos := rfl
@[simp] theorem State.endRuns_buf (s : State) : s.endRuns.buf = s.buf := rfl
@[simp] theorem State.endRuns_insideOcb (s : State) : s.endRuns.insideOcb = s.insideOcb := rfl
@[simp] theorem State.endRuns_fault (s : State) : s.endRuns.fault = s.fault := rfl
@[simp] theorem State.endRuns_oa (s : State) : s.endRuns.oa = OARegs.start := rfl
@[simp] theorem State.endRuns_fa (s : State) : s.endRuns.fa = FARegs.start := rfl
@[simp] theorem State.endRuns_ga (s : State) : s.endRuns.ga = GARegs.start := rfl
@[simp] theorem State.endRuns_out (s : State) : s.endRuns.out = s.out := rfl

@[simp] theorem State.raise_params (s : State) (e : FatalError) : (s.raise e).params = s.params := rfl
@[simp] theorem State.raise_input (s : State) (e : FatalError) : (s.raise e).input = s.input := rfl
@[simp] theorem State.raise_pos (s : State) (e : FatalError) : (s.raise e).pos = s.pos := rfl
@[simp] theorem State.raise_buf (s : State) (e : FatalError) : (s.raise e).buf = [] := rfl
@[simp] theorem State.raise_insideOcb (s : State) (e : FatalError) : (s.raise e).insideOcb = false := rfl
@[simp] theorem State.raise_fault (s : State) (e : FatalError) : (s.raise e).fault = some { error := e, pos := s.pos } := rfl
@[simp] theorem State.raise_oa (s : State) (e : FatalError) : (s.raise e).oa = OARegs.start := rfl
@[simp] theorem State.raise_fa (s : State) (e : FatalError) : (s.raise e).fa = FARegs.start := rfl
@[simp] theorem State.raise_ga (s : State) (e : FatalError) : (s.raise e).ga = GARegs.start := rfl
@[simp] theorem State.raise_out (s : State) (e : FatalError) : (s.raise e).out = s.out ++ [.fault { error := e, pos := s.pos }] := rfl

@[simp] theorem State.closeEnvelope_params (s : State) (ev : OCBEvent) (ws : List Warning) : (s.closeEnvelope ev ws).params = s.params := rfl
@[simp] theorem State.closeEnvelope_input (s : State) (ev : OCBEvent) (ws : List Warning) : (s.closeEnvelope ev ws).input = s.input := rfl
@[simp] theorem State.closeEnvelope_pos (s : State) (ev : OCBEvent) (ws : List Warning) : (s.closeEnvelope ev ws).pos = s.pos := rfl
@[simp] theorem State.closeEnvelope_buf (s : State) (ev : OCBEvent) (ws : List Warning) : (s.closeEnvelope ev ws).buf = [] := rfl
@[simp] theorem State.closeEnvelope_insideOcb (s : State) (ev : OCBEvent) (ws : List Warning) : (s.closeEnvelope ev ws).insideOcb = false := rfl
@[simp] theorem State.closeEnvelope_fault (s : State) (ev : OCBEvent) (ws : List Warning) : (s.closeEnvelope ev ws).fault = s.fault := rfl
@[simp] theorem State.closeEnvelope_oa (s : State) (ev : OCBEvent) (ws : List Warning) : (s.closeEnvelope ev ws).oa = OARegs.start := rfl
@[simp] theorem State.closeEnvelope_fa (s : State) (ev : OCBEvent) (ws : List Warning) : (s.closeEnvelope ev ws).fa = FARegs.start := rfl
@[simp] theorem State.closeEnvelope_ga (s : State) (ev : OCBEvent) (ws : List Warning) : (s.closeEnvelope ev ws).ga = GARegs.start := rfl
@[simp] theorem State.closeEnvelope_out (s : State) (ev : OCBEvent) (ws : List Warning) : (s.closeEnvelope ev ws).out = s.out ++ [.event ev ws] := rfl

@[simp] theorem State.hostReset_params (s : State) : s.hostReset.params = s.params := rfl
@[simp] theorem State.hostReset_input (s : State) : s.hostReset.input = s.input := rfl
@[simp] theorem State.hostReset_pos (s : State) : s.hostReset.pos = 0 := rfl
@[simp] theorem State.hostReset_buf (s : State) : s.hostReset.buf = [] := rfl
@[simp] theorem State.hostReset_insideOcb (s : State) : s.hostReset.insideOcb = false := rfl
@[simp] theorem State.hostReset_fault (s : State) : s.hostReset.fault = none := rfl
@[simp] theorem State.hostReset_oa (s : State) : s.hostReset.oa = OARegs.start := rfl
@[simp] theorem State.hostReset_fa (s : State) : s.hostReset.fa = FARegs.start := rfl
@[simp] theorem State.hostReset_ga (s : State) : s.hostReset.ga = GARegs.start := rfl
@[simp] theorem State.hostReset_out (s : State) : s.hostReset.out = [] := rfl

@[simp] theorem State.supply_params (s : State) (xs : List InputItem) : (s.supply xs).params = s.params := rfl
@[simp] theorem State.supply_input (s : State) (xs : List InputItem) : (s.supply xs).input = s.input ++ xs := rfl
@[simp] theorem State.supply_pos (s : State) (xs : List InputItem) : (s.supply xs).pos = s.pos := rfl
@[simp] theorem State.supply_buf (s : State) (xs : List InputItem) : (s.supply xs).buf = s.buf := rfl
@[simp] theorem State.supply_insideOcb (s : State) (xs : List InputItem) : (s.supply xs).insideOcb = s.insideOcb := rfl
@[simp] theorem State.supply_fault (s : State) (xs : List InputItem) : (s.supply xs).fault = s.fault := rfl
@[simp] theorem State.supply_oa (s : State) (xs : List InputItem) : (s.supply xs).oa = s.oa := rfl
@[simp] theorem State.supply_fa (s : State) (xs : List InputItem) : (s.supply xs).fa = s.fa := rfl
@[simp] theorem State.supply_ga (s : State) (xs : List InputItem) : (s.supply xs).ga = s.ga := rfl
@[simp] theorem State.supply_out (s : State) (xs : List InputItem) : (s.supply xs).out = s.out := rfl

/-! ### The FEB Assembler's registers -/

@[simp] theorem faShift_currentTag (r : FARegs) : (faShift r).currentTag = none := rfl
@[simp] theorem faShift_currentWords (r : FARegs) : (faShift r).currentWords = [] := rfl
@[simp] theorem faShift_previousTag (r : FARegs) : (faShift r).previousTag = r.currentTag := rfl
@[simp] theorem faShift_previousWords (r : FARegs) : (faShift r).previousWords = r.currentWords := rfl
@[simp] theorem faShift_boardId (r : FARegs) : (faShift r).boardId = r.boardId := rfl
@[simp] theorem faShift_holdTime (r : FARegs) : (faShift r).holdTime = r.holdTime := rfl
@[simp] theorem faShift_gtsTimeMap (r : FARegs) : (faShift r).gtsTimeMap = r.gtsTimeMap := rfl
@[simp] theorem faShift_hitTimes (r : FARegs) : (faShift r).hitTimes = r.hitTimes := rfl
@[simp] theorem faShift_hitAmplitudes (r : FARegs) : (faShift r).hitAmplitudes = r.hitAmplitudes := rfl
@[simp] theorem faShift_status (r : FARegs) : (faShift r).status = r.status := rfl

@[simp] theorem faRecordTime_currentTag (t : BitVec 20) (r : FARegs) : (faRecordTime t r).currentTag = r.currentTag := by
  unfold faRecordTime; split <;> rfl
@[simp] theorem faRecordTime_currentWords (t : BitVec 20) (r : FARegs) : (faRecordTime t r).currentWords = r.currentWords := by
  unfold faRecordTime; split <;> rfl
@[simp] theorem faRecordTime_previousTag (t : BitVec 20) (r : FARegs) : (faRecordTime t r).previousTag = r.previousTag := by
  unfold faRecordTime; split <;> rfl
@[simp] theorem faRecordTime_previousWords (t : BitVec 20) (r : FARegs) : (faRecordTime t r).previousWords = r.previousWords := by
  unfold faRecordTime; split <;> rfl
@[simp] theorem faRecordTime_boardId (t : BitVec 20) (r : FARegs) : (faRecordTime t r).boardId = r.boardId := by
  unfold faRecordTime; split <;> rfl
@[simp] theorem faRecordTime_holdTime (t : BitVec 20) (r : FARegs) : (faRecordTime t r).holdTime = r.holdTime := by
  unfold faRecordTime; split <;> rfl
@[simp] theorem faRecordTime_hitTimes (t : BitVec 20) (r : FARegs) : (faRecordTime t r).hitTimes = r.hitTimes := by
  unfold faRecordTime; split <;> rfl
@[simp] theorem faRecordTime_hitAmplitudes (t : BitVec 20) (r : FARegs) : (faRecordTime t r).hitAmplitudes = r.hitAmplitudes := by
  unfold faRecordTime; split <;> rfl
@[simp] theorem faRecordTime_status (t : BitVec 20) (r : FARegs) : (faRecordTime t r).status = r.status := by
  unfold faRecordTime; split <;> rfl

/-! ### The OCB Assembler's registers -/

@[simp] theorem OARegs.warn_i (r : OARegs) (w : Warning) : (r.warn w).i = r.i := rfl
@[simp] theorem OARegs.warn_fwc (r : OARegs) (w : Warning) : (r.warn w).fwc = r.fwc := rfl
@[simp] theorem OARegs.warn_gtsc (r : OARegs) (w : Warning) : (r.warn w).gtsc = r.gtsc := rfl
@[simp] theorem OARegs.warn_ghi (r : OARegs) (w : Warning) : (r.warn w).ghi = r.ghi := rfl
@[simp] theorem OARegs.warn_febBoard (r : OARegs) (w : Warning) : (r.warn w).febBoard = r.febBoard := rfl
@[simp] theorem OARegs.warn_event (r : OARegs) (w : Warning) : (r.warn w).event = r.event := rfl
@[simp] theorem OARegs.warn_warnings (r : OARegs) (w : Warning) : (r.warn w).warnings = r.warnings ++ [w] := rfl

@[simp] theorem OARegs.count_i (r : OARegs) : r.count.i = r.i := rfl
@[simp] theorem OARegs.count_fwc (r : OARegs) : r.count.fwc = r.fwc + 1 := rfl
@[simp] theorem OARegs.count_gtsc (r : OARegs) : r.count.gtsc = r.gtsc := rfl
@[simp] theorem OARegs.count_ghi (r : OARegs) : r.count.ghi = r.ghi := rfl
@[simp] theorem OARegs.count_febBoard (r : OARegs) : r.count.febBoard = r.febBoard := rfl
@[simp] theorem OARegs.count_event (r : OARegs) : r.count.event = r.event := rfl
@[simp] theorem OARegs.count_warnings (r : OARegs) : r.count.warnings = r.warnings := rfl

@[simp] theorem OARegs.countIfEvent_i (r : OARegs) : r.countIfEvent.i = r.i := by
  unfold OARegs.countIfEvent; split <;> rfl
@[simp] theorem OARegs.countIfEvent_gtsc (r : OARegs) : r.countIfEvent.gtsc = r.gtsc := by
  unfold OARegs.countIfEvent; split <;> rfl
@[simp] theorem OARegs.countIfEvent_ghi (r : OARegs) : r.countIfEvent.ghi = r.ghi := by
  unfold OARegs.countIfEvent; split <;> rfl
@[simp] theorem OARegs.countIfEvent_febBoard (r : OARegs) : r.countIfEvent.febBoard = r.febBoard := by
  unfold OARegs.countIfEvent; split <;> rfl
@[simp] theorem OARegs.countIfEvent_event (r : OARegs) : r.countIfEvent.event = r.event := by
  unfold OARegs.countIfEvent; split <;> rfl
@[simp] theorem OARegs.countIfEvent_warnings (r : OARegs) : r.countIfEvent.warnings = r.warnings := by
  unfold OARegs.countIfEvent; split <;> rfl

end Sys2Proof.Machine
end

