-- ==== Sys2Proof/Laws/Ops.lean ====
section
/-! SUPPORT. What the shared operations do, said once: word stores, walks, finite maps, the capacity test, the shape of
a word's step, and that every operation on a store keeps its canonical form. -/

namespace Sys2Proof.Machine

/-! ### Word stores -/

@[simp] theorem append_length (B : List Instr) (v : Instr) : (append B v).length = B.length + 1 := by
  simp [append]

@[simp] theorem append_ne_nil (B : List Instr) (v : Instr) : append B v ≠ [] := by simp [append]

/-- An append leaves every word that stood in the store (R65). -/
theorem memRead_append_of_lt (B : List Instr) (v : Instr) {i : Nat} (h : i < B.length) :
    memRead (append B v) i = memRead B i := by
  simp [memRead, append, List.getElem?_append_left h]

/-- An append puts its word at index `len(B)` (R65). -/
theorem memRead_append_length (B : List Instr) (v : Instr) : memRead (append B v) B.length = some v := by
  simp [memRead, append]

/-- The interior of a header, a middle and a trailer is the middle (R194, R235). -/
@[simp] theorem innerWords_cons_append (a : Instr) (m : List Instr) (z : Instr) : innerWords (a :: (m ++ [z])) = m := by
  simp [innerWords]

/-- A slice reads the store it is cut from (R67). -/
theorem memRead_slice (B : List Instr) (g i k : Nat) (h : k < i + 1 - g) :
    memRead (slice B g i) k = memRead B (g + k) := by
  simp [memRead, slice, h, List.getElem?_drop]

/-! ### Walks -/

@[simp] theorem walk_nil {σ : Type} (visit : Instr → σ → Except FatalError σ) (r : σ) : walk visit [] r = .ok r := rfl

theorem walk_cons {σ : Type} (visit : Instr → σ → Except FatalError σ) (w : Instr) (ws : List Instr) (r : σ) :
    walk visit (w :: ws) r = (visit w r).bind (walk visit ws) := by
  simp only [walk]; cases visit w r <;> rfl

/-- A walk over two lists is the walk over the second from where the walk over the first ends. -/
theorem walk_append {σ : Type} (visit : Instr → σ → Except FatalError σ) (xs ys : List Instr) (r : σ) :
    walk visit (xs ++ ys) r = (walk visit xs r).bind (walk visit ys) := by
  induction xs generalizing r with
  | nil => rfl
  | cons x xs ih =>
    simp only [List.cons_append, walk_cons]
    cases visit x r with
    | error e => rfl
    | ok r' => exact ih r'

/-- A walk whose first word fails, or whose rest fails after it. -/
theorem walk_cons_ok {σ : Type} {visit : Instr → σ → Except FatalError σ} {w : Instr} {ws : List Instr} {r t : σ} :
    walk visit (w :: ws) r = .ok t ↔ ∃ r', visit w r = .ok r' ∧ walk visit ws r' = .ok t := by
  rw [walk_cons]; cases visit w r <;> simp [Except.bind]

/-- The induction over a walk, packaged once: what holds at the start and every visited word keeps holds at the
end. -/
theorem walk_keeps {σ : Type} {visit : Instr → σ → Except FatalError σ} (P : σ → Prop) {ws : List Instr}
    (hstep : ∀ w ∈ ws, ∀ r r', visit w r = .ok r' → P r → P r') {r t : σ} (h : walk visit ws r = .ok t) (hr : P r) :
    P t := by
  induction ws generalizing r with
  | nil => cases h; exact hr
  | cons w ws ih =>
    obtain ⟨r', h1, h2⟩ := walk_cons_ok.mp h
    exact ih (fun v hv => hstep v (List.mem_cons_of_mem _ hv)) h2 (hstep w List.mem_cons_self r r' h1 hr)

/-- The same for the error of a walk: some visited word raises it, from registers that kept the property. -/
theorem walk_error {σ : Type} {visit : Instr → σ → Except FatalError σ} (P : σ → Prop) {ws : List Instr}
    (hstep : ∀ w ∈ ws, ∀ r r', visit w r = .ok r' → P r → P r') {r : σ} {e : FatalError}
    (h : walk visit ws r = .error e) (hr : P r) : ∃ w ∈ ws, ∃ r', P r' ∧ visit w r' = .error e := by
  induction ws generalizing r with
  | nil => cases h
  | cons w ws ih =>
    rw [walk_cons] at h
    cases hv : visit w r with
    | error e' =>
      rw [hv] at h
      exact ⟨w, List.mem_cons_self, r, hr, by rw [hv]; exact h⟩
    | ok r' =>
      rw [hv] at h
      obtain ⟨w', hw', r'', hP, he⟩ := ih (fun v hv => hstep v (List.mem_cons_of_mem _ hv)) h
        (hstep w List.mem_cons_self r r' hv hr)
      exact ⟨w', List.mem_cons_of_mem _ hw', r'', hP, he⟩

/-- A walk that skips a word's visits skips the words: only the words on which the visit acts matter. -/
theorem walk_filter {σ : Type} {visit : Instr → σ → Except FatalError σ} (p : Instr → Bool)
    (hskip : ∀ w r, p w = false → visit w r = .ok r) (ws : List Instr) (r : σ) :
    walk visit (ws.filter p) r = walk visit ws r := by
  induction ws generalizing r with
  | nil => rfl
  | cons w ws ih =>
    cases hp : p w with
    | true =>
      simp only [List.filter_cons, hp, if_true, walk_cons]
      cases visit w r with
      | error e => rfl
      | ok r' => exact ih r'
    | false => simp [hp, walk_cons, hskip w r hp, Except.bind, ih]

/-! ### Finite maps -/

section
variable {α : Type} (k k' : Nat) (v : α) (m : KeyMap α)

@[simp] theorem KeyMap.find_insert_self : KeyMap.find k (KeyMap.insert k v m) = some v := by
  induction m with
  | nil => simp [insert, find]
  | cons p m ih =>
    simp only [insert]
    split
    · simp [find]
    · split
      · simp [find]
      · simp [find, *]

theorem KeyMap.find_insert_ne (h : k' ≠ k) : KeyMap.find k' (KeyMap.insert k v m) = KeyMap.find k' m := by
  induction m with
  | nil => simp [insert, find, h]
  | cons p m ih =>
    simp only [insert]
    split
    · simp [find, h]
    · split
      · rename_i h1 h2; simp [find, h, ← h2]
      · simp [find, ih]

theorem KeyMap.find_erase_ne (h : k' ≠ k) : KeyMap.find k' (KeyMap.erase k m) = KeyMap.find k' m := by
  induction m with
  | nil => rfl
  | cons p m ih =>
    simp only [erase]
    split
    · rename_i h1; simp [find, ← h1, h]
    · simp [find, ih]

theorem KeyMap.wf_iff : KeyMap.wf m = true ↔ (m.map Prod.fst).Pairwise (· < ·) := by simp [wf]

theorem KeyMap.mem_insert {x : Nat × α} (h : x ∈ KeyMap.insert k v m) : x = (k, v) ∨ x ∈ m := by
  induction m with
  | nil => simpa [insert] using h
  | cons p m ih =>
    simp only [insert] at h
    split at h
    · simpa using h
    · split at h
      · simp only [List.mem_cons] at h ⊢; tauto
      · simp only [List.mem_cons] at h ⊢
        rcases h with h | h
        · tauto
        · rcases ih h with h | h <;> tauto

theorem KeyMap.mem_erase {x : Nat × α} (h : x ∈ KeyMap.erase k m) : x ∈ m := by
  induction m with
  | nil => exact h
  | cons p m ih =>
    simp only [erase] at h
    split at h
    · exact List.mem_cons_of_mem _ h
    · simp only [List.mem_cons] at h ⊢
      exact h.imp id ih

theorem KeyMap.mem_of_find {v : α} (h : KeyMap.find k m = some v) : (k, v) ∈ m := by
  induction m with
  | nil => cases h
  | cons p m ih =>
    simp only [find] at h
    split at h
    · rename_i h1; simp at h; simp [h1, ← h]
    · exact List.mem_cons_of_mem _ (ih h)

/-- A write keeps the canonical form. -/
theorem KeyMap.wf_insert (h : KeyMap.wf m = true) : KeyMap.wf (KeyMap.insert k v m) = true := by
  rw [wf_iff] at *
  induction m with
  | nil => simp [insert]
  | cons p m ih =>
    simp only [List.map_cons, List.pairwise_cons] at h
    simp only [insert]
    split
    · rename_i hlt
      simp only [List.map_cons, List.pairwise_cons, List.mem_cons, forall_eq_or_imp]
      refine ⟨⟨hlt, fun a ha => ?_⟩, h⟩
      exact lt_trans hlt (h.1 a ha)
    · split
      · rename_i _ heq
        simp only [List.map_cons, List.pairwise_cons]
        exact ⟨by rw [heq]; exact h.1, h.2⟩
      · simp only [List.map_cons, List.pairwise_cons]
        refine ⟨fun a ha => ?_, ih h.2⟩
        obtain ⟨x, hx, rfl⟩ := List.mem_map.mp ha
        rcases mem_insert k v m hx with rfl | hx
        · simp only; omega
        · exact h.1 _ (List.mem_map_of_mem hx)

/-- An erasure keeps the canonical form. -/
theorem KeyMap.wf_erase (h : KeyMap.wf m = true) : KeyMap.wf (KeyMap.erase k m) = true := by
  rw [wf_iff] at *
  induction m with
  | nil => exact h
  | cons p m ih =>
    simp only [List.map_cons, List.pairwise_cons] at h
    simp only [erase]
    split
    · exact h.2
    · simp only [List.map_cons, List.pairwise_cons]
      refine ⟨fun a ha => ?_, ih h.2⟩
      obtain ⟨x, hx, rfl⟩ := List.mem_map.mp ha
      exact h.1 _ (List.mem_map_of_mem (mem_erase k m hx))

/-- In a canonical map an erased key is gone. -/
theorem KeyMap.find_erase_self (h : KeyMap.wf m = true) : KeyMap.find k (KeyMap.erase k m) = none := by
  rw [wf_iff] at h
  induction m with
  | nil => rfl
  | cons p m ih =>
    simp only [List.map_cons, List.pairwise_cons] at h
    simp only [erase]
    split
    · rename_i heq
      cases hf : find k m with
      | none => rfl
      | some v =>
        have := h.1 _ (List.mem_map_of_mem (mem_of_find k m hf))
        simp only at this
        omega
    · rename_i hne; simp [find, hne, ih h.2]

/-- A new key adds one entry. -/
theorem KeyMap.length_insert_of_none (h : KeyMap.find k m = none) :
    (KeyMap.insert k v m).length = m.length + 1 := by
  induction m with
  | nil => rfl
  | cons p m ih =>
    simp only [find] at h
    split at h
    · cases h
    · rename_i hne
      simp only [insert, if_neg hne]
      split
      · simp
      · simp [ih h]

/-- An erased key that was there takes one entry away. -/
theorem KeyMap.length_erase_of_some {v : α} (h : KeyMap.find k m = some v) :
    (KeyMap.erase k m).length + 1 = m.length := by
  induction m with
  | nil => cases h
  | cons p m ih =>
    simp only [find] at h
    simp only [erase]
    split at h
    · rename_i heq; simp [heq]
    · rename_i hne; simp [hne, ih h]

end

/-! ### The capacity of the buffer -/

/-- What an append to `SD.buf` can do (R65, R70). -/
theorem bufAppend_cases {s : State} {w : Instr} {x : Except FatalError State} (h : s.bufAppend w = x) :
    (s.bufFull = true ∧ x = .error .bufferOverflow) ∨
    (s.bufFull = false ∧ x = .ok { s with buf := append s.buf w }) := by
  subst h; unfold State.bufAppend; cases s.bufFull <;> simp

/-- A buffer with room stays within its capacity after an append (R70). -/
theorem capacity_append {s : State} (h : s.bufFull = false) (w : Instr) :
    State.capacityWf { s with buf := append s.buf w } = true := by
  unfold State.bufFull at h
  unfold State.capacityWf
  cases hm : s.params.maxOcbWords with
  | none => rfl
  | some limit => simp [hm] at h ⊢; omega

/-! ### The canonical form of the buffer (R66) -/

/-- Clearing the buffer outside an envelope gives the canonical form. -/
@[simp] theorem memory_wf_clear : Memory.wf false [] = true := rfl

/-- A header appended to a cleared buffer opens the canonical form. -/
theorem memory_wf_open (gateType : BitVec 3) (gateTag : BitVec 2) (eventNumber : BitVec 23) :
    Memory.wf true (append [] (.ocbPacketHeader gateType gateTag eventNumber)) = true := rfl

/-- An interior word appended inside an envelope keeps the canonical form. -/
theorem memory_wf_append {buf : List Instr} {w : Instr} (h : Memory.wf true buf = true)
    (hw : w.interior = true) : Memory.wf true (append buf w) = true := by
  cases buf with
  | nil => cases h
  | cons a rest =>
    cases a <;> simp [Memory.wf, append] at h ⊢
    exact ⟨h, hw⟩

/-- Inside an envelope the buffer is a header and interior words. -/
theorem memory_wf_inside {buf : List Instr} (h : Memory.wf true buf = true) :
    ∃ gateType gateTag eventNumber rest,
      buf = .ocbPacketHeader gateType gateTag eventNumber :: rest ∧ rest.all Instr.interior = true := by
  cases buf with
  | nil => cases h
  | cons a rest =>
    cases a <;> simp [Memory.wf] at h
    exact ⟨_, _, _, rest, rfl, by simpa using h⟩

/-! ### The step of a word -/

/-- Every step of a word answers a next state, and it is one of these three (R270, R277, R279). -/
theorem wordStep_cases (rule : State → Except FatalError State) (s : State) :
    (s.fault.isSome = true ∧ wordStep rule s = .next s.consume) ∨
    (s.fault = none ∧ ∃ t, rule s.consume = .ok t ∧ wordStep rule s = .next t.advance) ∨
    (s.fault = none ∧ ∃ e, rule s.consume = .error e ∧ wordStep rule s = .next (s.consume.raise e)) := by
  unfold wordStep
  cases hf : s.fault with
  | some record => exact .inl ⟨rfl, by simp⟩
  | none =>
    cases hr : rule s.consume with
    | ok t => exact .inr (.inl ⟨rfl, t, rfl, by simp⟩)
    | error e => exact .inr (.inr ⟨rfl, e, rfl, by simp⟩)

theorem wordStep_ok {rule : State → Except FatalError State} {s t : State} (hf : s.fault = none)
    (h : rule s.consume = .ok t) : wordStep rule s = .next t.advance := by
  simp [wordStep, hf, h]

theorem wordStep_error {rule : State → Except FatalError State} {s : State} {e : FatalError} (hf : s.fault = none)
    (h : rule s.consume = .error e) : wordStep rule s = .next (s.consume.raise e) := by
  simp [wordStep, hf, h]

end Sys2Proof.Machine
end

