-- ==== Sys2Proof/Laws/Gts.lean ====
section
/-! SUPPORT. What the GTS Assembler's operations can do, said once. -/

namespace Sys2Proof.Machine

/-- The number of a key names the key (R162). -/
theorem timeKey_inj {c c' : ChannelId} {h h' : HitId} : timeKey c h = timeKey c' h' ↔ c = c' ∧ h = h' := by
  unfold timeKey
  constructor
  · intro e
    have := h.isLt
    have := h'.isLt
    constructor <;> apply BitVec.eq_of_toNat_eq <;> omega
  · rintro ⟨rfl, rfl⟩; rfl

theorem timeKey_ne {c c' : ChannelId} {h h' : HitId} (e : (c', h') ≠ (c, h)) : timeKey c' h' ≠ timeKey c h := by
  intro e'
  rw [timeKey_inj] at e'
  exact e (by simp [e'])

/-- The operands that an entry takes from its run (R32, R161). -/
theorem hitTimeEntry_operands {board : BoardId} {tag : Option GtsTag} {w : Instr} {e : HitTimeEntry}
    (h : hitTimeEntry board tag w = some e) :
    e.gtsTag = tag ∧ hitTagId w = some e.tagId ∧ isRisingEdge w = (e.edge == 0#1) := by
  cases w <;> simp [hitTimeEntry] at h
  subst h
  exact ⟨rfl, rfl, rfl⟩

theorem hitAmplitudeEntry_operands {board : BoardId} {tag : Option GtsTag} {w : Instr} {e : HitAmplitudeEntry}
    (h : hitAmplitudeEntry board tag w = some e) :
    e.gtsTag = tag ∧ hitTagId w = some e.tagId ∧ amplitudeChannel w = some e.channelId := by
  cases w <;> simp [hitAmplitudeEntry] at h
  subst h
  exact ⟨rfl, rfl, rfl⟩

theorem hitTimeEntry_none {board : BoardId} {tag : Option GtsTag} {w : Instr} :
    hitTimeEntry board tag w = none ↔ isHitTime w = false := by
  cases w <;> simp [isHitTime, hitTimeEntry]

theorem hitAmplitudeEntry_none {board : BoardId} {tag : Option GtsTag} {w : Instr} :
    hitAmplitudeEntry board tag w = none ↔ isHitAmplitude w = false := by
  cases w <;> simp [isHitAmplitude, hitAmplitudeEntry]

/-- What a word can do in the first pass (R162 to R164, R167). -/
theorem gaTimeVisit_cases {board : BoardId} {tag : Option GtsTag} {w : Instr} {r r' : GARegs}
    (h : gaTimeVisit board tag w r = .ok r') :
    (isHitTime w = false ∧ r' = r) ∨
    (∃ e, hitTimeEntry board tag w = some e ∧ e.edge = 0#1 ∧
      KeyMap.find (timeKey e.channelId e.hitId) r.timeMap = none ∧
      r' = { r with timeMap := KeyMap.insert (timeKey e.channelId e.hitId) (risingRecord e) r.timeMap }) ∨
    (∃ e m, hitTimeEntry board tag w = some e ∧ e.edge ≠ 0#1 ∧
      KeyMap.find (timeKey e.channelId e.hitId) r.timeMap = some m ∧
      r' = { r with
        timeMap := KeyMap.erase (timeKey e.channelId e.hitId) r.timeMap, timeOut := r.timeOut ++ [m.complete e] }) := by
  unfold gaTimeVisit at h
  split at h
  · rename_i e he
    unfold gaHitTime gaRise gaFall at h
    split at h
    · split at h <;> cases h
      exact .inr (.inl ⟨e, he, ‹_›, ‹_›, rfl⟩)
    · split at h <;> cases h
      exact .inr (.inr ⟨e, _, he, ‹_›, ‹_›, rfl⟩)
  · rename_i he
    cases h
    exact .inl ⟨hitTimeEntry_none.mp he, rfl⟩

/-- How a word can fail in the first pass (R163, R164). -/
theorem gaTimeVisit_error {board : BoardId} {tag : Option GtsTag} {w : Instr} {r : GARegs} {e : FatalError}
    (h : gaTimeVisit board tag w r = .error e) :
    ∃ c k, e = .duplicateRisingEdge c k ∨ e = .fallingBeforeRising c k := by
  unfold gaTimeVisit gaHitTime gaRise gaFall at h
  split at h
  · split at h <;> split at h <;> cases h
    · exact ⟨_, _, .inl rfl⟩
    · exact ⟨_, _, .inr rfl⟩
  · cases h

/-- What a word can do in the second pass (R166, R167). -/
theorem gaAmpVisit_cases {board : BoardId} {tag : Option GtsTag} {w : Instr} {r r' : GARegs}
    (h : gaAmpVisit board tag w r = .ok r') :
    (isHitAmplitude w = false ∧ r' = r) ∨
    (∃ e, hitAmplitudeEntry board tag w = some e ∧ e.amplitudeId = 2#3 ∧
      (ampRecord e.channelId r).hgAmplitude = none ∧
      r' = { r with
        ampMap := KeyMap.insert e.channelId.toNat
          { ampRecord e.channelId r with
            hgAmplitude := some e.amplitudeValue, hgTagId := some e.tagId, hgGtsTag := e.gtsTag } r.ampMap }) ∨
    (∃ e, hitAmplitudeEntry board tag w = some e ∧ e.amplitudeId ≠ 2#3 ∧
      (ampRecord e.channelId r).lgAmplitude = none ∧
      r' = { r with
        ampMap := KeyMap.insert e.channelId.toNat
          { ampRecord e.channelId r with
            lgAmplitude := some e.amplitudeValue, lgTagId := some e.tagId, lgGtsTag := e.gtsTag } r.ampMap }) := by
  unfold gaAmpVisit at h
  split at h
  · rename_i e he
    unfold gaHitAmplitude gaHighGain gaLowGain isHighGain at h
    split at h
    · rename_i hg
      split at h <;> cases h
      rename_i hn
      exact .inr (.inl ⟨e, he, by simpa using hg, by simpa using hn, rfl⟩)
    · rename_i hg
      split at h <;> cases h
      rename_i hn
      exact .inr (.inr ⟨e, he, by simpa using hg, by simpa using hn, rfl⟩)
  · rename_i he
    cases h
    exact .inl ⟨hitAmplitudeEntry_none.mp he, rfl⟩

/-- How a word can fail in the second pass (R166). -/
theorem gaAmpVisit_error {board : BoardId} {tag : Option GtsTag} {w : Instr} {r : GARegs} {e : FatalError}
    (h : gaAmpVisit board tag w r = .error e) : ∃ c, e = .duplicateGainHG c ∨ e = .duplicateGainLG c := by
  unfold gaAmpVisit gaHitAmplitude gaHighGain gaLowGain at h
  split at h
  · split at h <;> split at h <;> cases h
    · exact ⟨_, .inl rfl⟩
    · exact ⟨_, .inr rfl⟩
  · cases h

/-- The first pass leaves the amplitude registers. -/
theorem timeWalk_amp {board : BoardId} {tag : Option GtsTag} {ws : List Instr} {r r' : GARegs}
    (h : walk (gaTimeVisit board tag) ws r = .ok r') : r'.ampMap = r.ampMap ∧ r'.ampOut = r.ampOut := by
  refine walk_keeps (fun x => x.ampMap = r.ampMap ∧ x.ampOut = r.ampOut) (fun w _ a b hv ha => ?_) h ⟨rfl, rfl⟩
  rcases gaTimeVisit_cases hv with ⟨_, rfl⟩ | ⟨_, _, _, _, rfl⟩ | ⟨_, _, _, _, _, rfl⟩ <;> exact ha

/-- The second pass leaves the time registers and the amplitude output. -/
theorem ampWalk_time {board : BoardId} {tag : Option GtsTag} {ws : List Instr} {r r' : GARegs}
    (h : walk (gaAmpVisit board tag) ws r = .ok r') :
    r'.timeMap = r.timeMap ∧ r'.timeOut = r.timeOut ∧ r'.ampOut = r.ampOut := by
  refine walk_keeps (fun x => x.timeMap = r.timeMap ∧ x.timeOut = r.timeOut ∧ x.ampOut = r.ampOut)
    (fun w _ a b hv ha => ?_) h ⟨rfl, rfl, rfl⟩
  rcases gaAmpVisit_cases hv with ⟨_, rfl⟩ | ⟨_, _, _, _, rfl⟩ | ⟨_, _, _, _, rfl⟩ <;> exact ha

/-- A successful run, taken apart (R160, R168): the two passes and what stands in the two outputs. -/
theorem gtsAssemble_ok {board : BoardId} {tag : Option GtsTag} {block : List Instr} {timeOut : List MergedHitTime}
    {ampOut : List MergedHitAmplitude} (h : gtsAssemble board tag block = .ok (timeOut, ampOut)) :
    ∃ r r', walk (gaTimeVisit board tag) block GARegs.start = .ok r ∧ walk (gaAmpVisit board tag) block r = .ok r' ∧
      r.ampMap = [] ∧ timeOut = r.timeOut ++ KeyMap.values r.timeMap ∧ ampOut = KeyMap.values r'.ampMap := by
  unfold gtsAssemble gtsRun at h
  split at h
  · cases h
  · rename_i R hR
    split at hR
    · cases hR
    · rename_i r hr
      split at hR
      · cases hR
      · rename_i r' hr'
        cases hR
        cases h
        have ht := timeWalk_amp hr
        have ha := ampWalk_time hr'
        have ho : r'.ampOut = [] := ha.2.2.trans ht.2
        exact ⟨r, r', hr, hr', ht.1, by simp [gaFinish, ha.1, ha.2.1], by simp [gaFinish, ho]⟩

/-- How a run can fail: in the first pass, or in the second after it. -/
theorem gtsAssemble_error {board : BoardId} {tag : Option GtsTag} {block : List Instr} {e : FatalError}
    (h : gtsAssemble board tag block = .error e) :
    ∃ w ∈ block, ∃ r, gaTimeVisit board tag w r = .error e ∨ gaAmpVisit board tag w r = .error e := by
  unfold gtsAssemble gtsRun at h
  split at h
  · rename_i hR
    cases h
    split at hR
    · rename_i h1
      cases hR
      obtain ⟨w, hw, r', _, he⟩ := walk_error (fun _ => True) (fun _ _ _ _ _ _ => trivial) h1 trivial
      exact ⟨w, hw, r', .inl he⟩
    · split at hR
      · rename_i h1
        cases hR
        obtain ⟨w, hw, r', _, he⟩ := walk_error (fun _ => True) (fun _ _ _ _ _ _ => trivial) h1 trivial
        exact ⟨w, hw, r', .inr he⟩
      · cases hR
  · cases h

end Sys2Proof.Machine
end

