-- ==== Sys2Proof/Laws/Feb.lean ====
section
/-! SUPPORT. What the FEB Assembler's operations can do, said once. -/

namespace Sys2Proof.Machine

/-- `matches(tag_id, T)` holds exactly for a set tag whose low two bits are the tag id (R197). -/
theorem tagMatches_iff (t : TagId) (tag : Option GtsTag) :
    tagMatches t tag = true ↔ ∃ g, tag = some g ∧ t.toNat = g.toNat % 4 := by
  cases tag with
  | none => simp [tagMatches]
  | some g =>
    simp only [tagMatches, beq_iff_eq, Option.some.injEq, exists_eq_left']
    constructor
    · rintro rfl; simp
    · intro h
      apply BitVec.eq_of_toNat_eq
      simpa using h

theorem tagMatches_isSome {t : TagId} {tag : Option GtsTag} (h : tagMatches t tag = true) : tag.isSome = true := by
  cases tag <;> simp_all [tagMatches]

/-- What a flush can do (R204). -/
theorem faFlush_cases {tag : Option GtsTag} {ws : List Instr} {r r' : FARegs} (h : faFlush tag ws r = .ok r') :
    (ws = [] ∧ r' = r) ∨
    (ws ≠ [] ∧ ∃ timeOut ampOut, gtsAssemble r.boardId tag ws = .ok (timeOut, ampOut) ∧
      r' = { r with hitTimes := r.hitTimes ++ timeOut, hitAmplitudes := r.hitAmplitudes ++ ampOut }) := by
  unfold faFlush at h
  split at h
  · rename_i hw
    cases h
    exact .inl ⟨hw, rfl⟩
  · rename_i hw
    split at h
    · cases h
    · rename_i t a hg
      cases h
      exact .inr ⟨hw, t, a, hg, rfl⟩

/-- A flush fails only by its GTS Assembler run (R204). -/
theorem faFlush_error {tag : Option GtsTag} {ws : List Instr} {r : FARegs} {e : FatalError}
    (h : faFlush tag ws r = .error e) : gtsAssemble r.boardId tag ws = .error e := by
  unfold faFlush at h
  split at h
  · cases h
  · split at h
    · rename_i hg
      cases h
      exact hg
    · cases h

/-- The registers that a flush leaves. -/
theorem faFlush_keeps {tag : Option GtsTag} {ws : List Instr} {r r' : FARegs} (h : faFlush tag ws r = .ok r') :
    r'.boardId = r.boardId ∧ r'.status = r.status ∧ r'.holdTime = r.holdTime ∧ r'.gtsTimeMap = r.gtsTimeMap ∧
      r'.currentWords = r.currentWords ∧ r'.previousWords = r.previousWords ∧ r'.currentTag = r.currentTag ∧
      r'.previousTag = r.previousTag := by
  rcases faFlush_cases h with ⟨_, rfl⟩ | ⟨_, t, a, _, rfl⟩ <;> exact ⟨rfl, rfl, rfl, rfl, rfl, rfl, rfl, rfl⟩

/-- The pair that R203 records under a set tag. -/
theorem faRecordTime_some {time : BitVec 20} {r : FARegs} {g : GtsTag} (h : r.currentTag = some g) :
    faRecordTime time r = { r with gtsTimeMap := r.gtsTimeMap ++ [(g, time)] } := by
  simp [faRecordTime, h]

/-- Recording a time changes the GTS-time map only. -/
theorem faRecordTime_keeps (time : BitVec 20) (r : FARegs) :
    ∃ pairs, faRecordTime time r = { r with gtsTimeMap := pairs } := by
  unfold faRecordTime
  split <;> exact ⟨_, rfl⟩

/-- A hit word is routed by its tag id (R196). -/
theorem faVisit_hit {w : Instr} {t : TagId} (h : hitTagId w = some t) (r : FARegs) : faVisit w r = faRoute w t r := by
  cases w <;> simp [hitTagId] at h <;> subst h <;> rfl

/-- What a word of the walk can do (R195, R196, R199, R203, R205 to R208). -/
theorem faVisit_cases {w : Instr} {r r' : FARegs} (h : faVisit w r = .ok r') :
    (hitTagId w = none ∧ trailer2Time w = none ∧ r' = r) ∨
    (∃ g, w = .gtsHeader g ∧ r' = { r with currentWords := append r.currentWords w, currentTag := some g }) ∨
    (∃ g, w = .gtsTrailer1 g ∧ r.currentTag = some g ∧ r' = { r with currentWords := append r.currentWords w }) ∨
    (∃ t, hitTagId w = some t ∧ tagMatches t r.currentTag = true ∧
      r' = { r with currentWords := append r.currentWords w }) ∨
    (∃ t, hitTagId w = some t ∧ tagMatches t r.previousTag = true ∧
      r' = { r with previousWords := append r.previousWords w }) ∨
    (∃ d o f time u r1, w = .gtsTrailer2 d o f time u ∧ r.currentWords ≠ [] ∧
      faFlush r.previousTag r.previousWords
        (faRecordTime time { r with currentWords := append r.currentWords w }) = .ok r1 ∧ r' = faShift r1) := by
  have hroute : ∀ t, faRoute w t r = .ok r' →
      (tagMatches t r.currentTag = true ∧ r' = { r with currentWords := append r.currentWords w }) ∨
      (tagMatches t r.previousTag = true ∧ r' = { r with previousWords := append r.previousWords w }) := by
    intro t h
    unfold faRoute at h
    split at h
    · cases h; exact .inl ⟨‹_›, rfl⟩
    · split at h
      · cases h; exact .inr ⟨‹_›, rfl⟩
      · cases h
  cases w with
  | gtsHeader g => cases h; exact .inr (.inl ⟨g, rfl, rfl⟩)
  | gtsTrailer1 g =>
    simp only [faVisit, faGtsTrailer1] at h
    split at h <;> cases h
    exact .inr (.inr (.inl ⟨g, rfl, ‹_›, rfl⟩))
  | hitTime c k t e x u =>
    rcases hroute t h with h | h
    · exact .inr (.inr (.inr (.inl ⟨t, rfl, h⟩)))
    · exact .inr (.inr (.inr (.inr (.inl ⟨t, rfl, h⟩))))
  | hitAmplitude c k t e x =>
    rcases hroute t h with h | h
    · exact .inr (.inr (.inr (.inl ⟨t, rfl, h⟩)))
    · exact .inr (.inr (.inr (.inr (.inl ⟨t, rfl, h⟩))))
  | gtsTrailer2 d o f t u =>
    simp only [faVisit, faGtsTrailer2] at h
    split at h
    · cases h
    · rename_i hw
      split at h
      · cases h
      · rename_i r1 h1
        cases h
        exact .inr (.inr (.inr (.inr (.inr ⟨d, o, f, t, u, r1, rfl, hw, h1, rfl⟩))))
  | _ => cases h; exact .inl ⟨rfl, rfl, rfl⟩

/-- How a word of the walk can fail (R196, R199, R203). -/
theorem faVisit_error {w : Instr} {r : FARegs} {e : FatalError} (h : faVisit w r = .error e) :
    (∃ t, e = .hitTagMismatch t r.currentTag r.previousTag) ∨ (∃ g, e = .trailerTagMismatch g r.currentTag) ∨
    e = .trailerWithoutHeader ∨ ∃ board tag ws, gtsAssemble board tag ws = .error e := by
  have hroute : ∀ t, faRoute w t r = .error e → e = .hitTagMismatch t r.currentTag r.previousTag := by
    intro t h
    unfold faRoute at h
    split at h
    · cases h
    · split at h <;> cases h
      rfl
  cases w with
  | hitTime c k t x y u => exact .inl ⟨t, hroute t h⟩
  | hitAmplitude c k t x y => exact .inl ⟨t, hroute t h⟩
  | gtsTrailer1 g =>
    simp only [faVisit, faGtsTrailer1] at h
    split at h <;> cases h
    exact .inr (.inl ⟨g, rfl⟩)
  | gtsTrailer2 d o f t u =>
    simp only [faVisit, faGtsTrailer2] at h
    split at h
    · cases h; exact .inr (.inr (.inl rfl))
    · split at h
      · rename_i h1
        cases h
        exact .inr (.inr (.inr ⟨_, _, _, faFlush_error h1⟩))
      · cases h
  | _ => cases h

/-- No word of the walk changes the three registers captured before it (R190 to R193). -/
theorem faVisit_captured {w : Instr} {r r' : FARegs} (h : faVisit w r = .ok r') :
    r'.boardId = r.boardId ∧ r'.status = r.status ∧ r'.holdTime = r.holdTime := by
  rcases faVisit_cases h with ⟨_, _, rfl⟩ | ⟨g, _, rfl⟩ | ⟨g, _, _, rfl⟩ | ⟨t, _, _, rfl⟩ | ⟨t, _, _, rfl⟩ |
    ⟨d, o, f, time, u, r1, _, _, h1, rfl⟩
  any_goals exact ⟨rfl, rfl, rfl⟩
  obtain ⟨pairs, hp⟩ := faRecordTime_keeps time { r with currentWords := append r.currentWords w }
  rw [hp] at h1
  have hk := faFlush_keeps h1
  exact ⟨hk.1, hk.2.1, hk.2.2.1⟩

/-- The end of a slice is two flushes (R211). -/
theorem faEnd_ok {r r' : FARegs} (h : faEnd r = .ok r') :
    ∃ r1, faFlush r.previousTag r.previousWords r = .ok r1 ∧ faFlush r.currentTag r.currentWords r1 = .ok r' := by
  unfold faEnd at h
  split at h
  · cases h
  · exact ⟨_, ‹_›, h⟩

/-- A successful run, taken apart (R190, R214). -/
theorem febAssemble_ok {S : List Instr} {p : FEBPacket} (h : febAssemble S = .ok p) :
    ∃ board status r r', S.head?.bind gateHeaderBoard = some board ∧ S.getLast?.bind trailerStatus = some status ∧
      walk faVisit (innerWords S) (faBegin board status S) = .ok r ∧ faEnd r = .ok r' ∧ p = r'.packet := by
  unfold febAssemble febRun at h
  split at h
  · cases h
  · split at h
    · rename_i b st hb hst
      split at h
      · cases h
      · rename_i r' hr'
        cases h
        split at hr'
        · cases hr'
        · rename_i r hr
          exact ⟨b, st, r, r', hb, hst, hr, hr', rfl⟩
    · cases h

end Sys2Proof.Machine
end

