-- ==== Sys2Proof/Laws/Ocb.lean ====
section
/-! SUPPORT. What the OCB Assembler's operations can do, said once, and where its walk stands in the buffer. -/

namespace Sys2Proof.Machine

/-- Only the FEB-word counter can change in `count_if_event()` (R244). -/
theorem countIfEvent_eq (r : OARegs) :
    r.countIfEvent = { r with fwc := if r.gtsc > 2 then r.fwc + 1 else r.fwc } := by
  unfold OARegs.countIfEvent Config.numGtsBeforeEvent
  split <;> rfl

/-- A filled slot reads as what it was filled with (R250). -/
theorem slot_fill_self (ev : OCBEvent) (b : Nat) (p : FEBPacket) (hb : b < Config.numFebsPerOcb) :
    (ev.fill b p).slot b = some p := by
  simp [OCBEvent.fill, OCBEvent.slot, hb]

/-- Filling a slot leaves every other slot. -/
theorem slot_fill_ne (ev : OCBEvent) (b k : Nat) (p : FEBPacket) (h : k ≠ b) : (ev.fill b p).slot k = ev.slot k := by
  simp only [OCBEvent.fill, OCBEvent.slot]
  rw [Vector.getElem?_setIfInBounds_ne]
  omega

/-- A slice begins with the word at its first index (R67). -/
theorem slice_head {B : List Instr} {g i : Nat} (h : g < i) : (slice B g i).head? = memRead B g := by
  rw [List.head?_eq_getElem?]
  exact memRead_slice B g i 0 (by omega)

/-- A slice ends with the word at its last index (R67). -/
theorem slice_last {B : List Instr} {g i : Nat} {w : Instr} (h : g < i) (hw : memRead B i = some w) :
    (slice B g i).getLast? = some w := by
  have hl : i < B.length := (List.getElem?_eq_some_iff.mp hw).1
  have hlen : (slice B g i).length = i + 1 - g := by simp [slice]; omega
  rw [List.getLast?_eq_getElem?, hlen]
  have hs := memRead_slice B g i (i + 1 - g - 1) (by omega)
  simp only [memRead] at hs hw
  rw [hs, ← hw]
  congr 1
  omega

/-- What a word of the walk can do to the event, the recorded header and the warnings (R240 to R257). -/
theorem oaVisit_cases {B : List Instr} {w : Instr} {r r' : OARegs} (h : oaVisit B w r = .ok r') :
    r'.i = r.i + 1 ∧
    ((∃ b t n, w = .gateHeaderType0 b t n ∧ r'.ghi = some r.i ∧ r'.febBoard = b ∧ r'.event = r.event ∧
        r'.warnings = r.warnings) ∨
     (r'.event = r.event ∧ r'.ghi = r.ghi ∧ r'.febBoard = r.febBoard ∧
        (r'.warnings = r.warnings ∨ ∃ x, r'.warnings = r.warnings ++ [x] ∧ (w.interior = true → x.wf = true))) ∨
     (∃ g p, trailerStatus w ≠ none ∧ r.ghi = some g ∧ r.febBoard.toNat < Config.numFebsPerOcb ∧
        r.event.slot r.febBoard.toNat = none ∧ febAssemble (slice B g r.i) = .ok p ∧
        r'.event = r.event.fill r.febBoard.toNat p ∧ r'.ghi = r.ghi ∧ r'.febBoard = r.febBoard ∧
        r'.warnings = r.warnings)) := by
  unfold oaVisit at h
  split at h
  · cases h
  rename_i r1 h1
  cases h
  cases w with
  | gateHeaderType0 b t n => cases h1; exact ⟨rfl, .inl ⟨b, t, n, rfl, rfl, rfl, rfl, rfl⟩⟩
  | febDataPacketTrailer b f1 f2 f3 f4 f5 n =>
    simp only [oaRule, oaFebTrailer] at h1
    split at h1
    · cases h1
    · rename_i g hg
      unfold oaPlace at h1
      split at h1
      · rename_i h9
        cases h1
        exact ⟨rfl, .inr (.inl ⟨rfl, rfl, rfl, .inr ⟨_, rfl, fun _ => decide_eq_true h9⟩⟩)⟩
      · rename_i h9
        split at h1
        · cases h1
          exact ⟨rfl, .inr (.inl ⟨rfl, rfl, rfl, .inr ⟨_, rfl, fun _ => decide_eq_true (Nat.lt_of_not_le h9)⟩⟩)⟩
        · rename_i hs
          split at h1
          · cases h1
          · rename_i p hp
            cases h1
            exact ⟨rfl, .inr (.inr ⟨g, p, by simp [trailerStatus], hg, Nat.lt_of_not_le h9, by simpa using hs, hp, rfl,
              rfl, rfl, rfl⟩)⟩
  | eventDone b n c =>
    simp only [oaRule, oaEventDone] at h1
    split at h1 <;> cases h1
    · exact ⟨rfl, .inr (.inl ⟨rfl, rfl, rfl, .inl rfl⟩)⟩
    · exact ⟨rfl, .inr (.inl ⟨rfl, rfl, rfl, .inr ⟨_, rfl, fun _ => by simpa [Warning.wf]⟩⟩)⟩
  | gtsHeader _ => cases h1; simp [oaGtsHeader, countIfEvent_eq]
  | hitTime _ _ _ _ _ _ => cases h1; simp [oaHitTime, countIfEvent_eq]
  | hitAmplitude _ _ _ _ _ => cases h1; simp [oaHitAmplitude, countIfEvent_eq]
  | gtsTrailer1 _ => cases h1; simp [oaGtsTrailer1, countIfEvent_eq]
  | gtsTrailer2 _ _ _ _ _ => cases h1; simp [oaGtsTrailer2, countIfEvent_eq]
  | gateHeaderType1 _ _ _ => cases h1; exact ⟨rfl, .inr (.inl ⟨rfl, rfl, rfl, .inl rfl⟩)⟩
  | gateTime _ => cases h1; exact ⟨rfl, .inr (.inl ⟨rfl, rfl, rfl, .inl rfl⟩)⟩
  | holdTime _ _ _ _ => cases h1; exact ⟨rfl, .inr (.inl ⟨rfl, rfl, rfl, .inl rfl⟩)⟩
  | _ =>
    cases h1
    exact ⟨rfl, .inr (.inl ⟨rfl, rfl, rfl, .inr ⟨_, rfl, fun h => by first | rfl | simp [Instr.interior] at h⟩⟩)⟩

/-- How a word of the walk can fail: only a FEBDataPacketTrailer does (R250). -/
theorem oaVisit_error {B : List Instr} {w : Instr} {r : OARegs} {e : FatalError} (h : oaVisit B w r = .error e) :
    trailerStatus w ≠ none ∧
      (e = .febTrailerWithoutHeader r.i ∨ ∃ g, r.ghi = some g ∧ febAssemble (slice B g r.i) = .error e) := by
  unfold oaVisit at h
  split at h
  · rename_i h1
    cases h
    cases w with
    | febDataPacketTrailer b f1 f2 f3 f4 f5 n =>
      refine ⟨by simp [trailerStatus], ?_⟩
      simp only [oaRule, oaFebTrailer] at h1
      split at h1
      · cases h1; exact .inl rfl
      · rename_i g hg
        unfold oaPlace at h1
        split at h1
        · cases h1
        · split at h1
          · cases h1
          · split at h1
            · rename_i h2
              cases h1
              exact .inr ⟨g, hg, h2⟩
            · cases h1
    | _ => cases h1
  · cases h

/-- The induction over the walk along the buffer, packaged once: each visited word stands in the buffer at the walk
index. -/
theorem oaWalk_keeps {B : List Instr} (P : OARegs → Prop) :
    ∀ (ws : List Instr) (r : OARegs), (∀ k, k < ws.length → memRead B (r.i + k) = ws[k]?) →
      (∀ w ∈ ws, ∀ r r', memRead B r.i = some w → oaVisit B w r = .ok r' → P r → P r') → P r →
      (∀ t, walk (oaVisit B) ws r = .ok t → P t) ∧
      (∀ e, walk (oaVisit B) ws r = .error e →
        ∃ w ∈ ws, ∃ r', memRead B r'.i = some w ∧ P r' ∧ oaVisit B w r' = .error e) := by
  intro ws
  induction ws with
  | nil => intro r _ _ hp; exact ⟨fun t h => by cases h; exact hp, fun e h => by cases h⟩
  | cons w ws ih =>
    intro r hr hstep hp
    have hw : memRead B r.i = some w := by simpa using hr 0 (by simp)
    have hrest : ∀ r1 : OARegs, r1.i = r.i + 1 → ∀ k, k < ws.length → memRead B (r1.i + k) = ws[k]? := by
      intro r1 hi k hk
      have := hr (k + 1) (by simp; omega)
      rw [hi]
      simpa [Nat.add_assoc, Nat.add_comm 1 k] using this
    have hstep' := fun v (hv : v ∈ ws) => hstep v (List.mem_cons_of_mem _ hv)
    constructor
    · intro t h
      obtain ⟨r1, h1, h2⟩ := walk_cons_ok.mp h
      exact (ih r1 (hrest r1 (oaVisit_cases h1).1) hstep' (hstep w List.mem_cons_self r r1 hw h1 hp)).1 t h2
    · intro e h
      rw [walk_cons] at h
      cases hv : oaVisit B w r with
      | error e' =>
        rw [hv] at h
        cases h
        exact ⟨w, List.mem_cons_self, r, hw, hp, hv⟩
      | ok r1 =>
        rw [hv] at h
        obtain ⟨w', h1, h2⟩ := (ih r1 (hrest r1 (oaVisit_cases hv).1) hstep'
          (hstep w List.mem_cons_self r r1 hw hv hp)).2 e h
        exact ⟨w', List.mem_cons_of_mem _ h1, h2⟩

/-- The run on a header, a middle and a trailer (R230, R231). -/
theorem ocbRun_envelope (hType tType : BitVec 3) (hTag tTag : BitVec 2) (number : BitVec 23) (errors : BitVec 16)
    (unused : BitVec 7) (mid : List Instr) :
    ocbRun (.ocbPacketHeader hType hTag number :: (mid ++ [.ocbPacketTrailer tType tTag errors unused])) =
      if hType = tType ∧ hTag = tTag then
        walk (oaVisit (.ocbPacketHeader hType hTag number :: (mid ++ [.ocbPacketTrailer tType tTag errors unused]))) mid
          (oaBegin hType hTag number errors)
      else .error (.ocbEnvelopeMismatch hType hTag tType tTag) := by
  have hl : (Instr.ocbPacketHeader hType hTag number :: (mid ++ [.ocbPacketTrailer tType tTag errors unused])).getLast? =
      some (.ocbPacketTrailer tType tTag errors unused) := by
    rw [← List.cons_append]; exact List.getLast?_concat
  unfold ocbRun
  rw [hl, innerWords_cons_append]
  rfl

end Sys2Proof.Machine
end

