-- ==== Sys2Proof/Laws/PerInstr.lean ====
section
/-! SUPPORT. The families of statements about every instruction, one lemma for each constructor. -/

namespace Sys2Proof.Laws

/-- The id bits of a word in place. -/
theorem and_id_bits (raw : Word) : raw &&& 0xF0000000#32 = place (idOf raw) 28 := by
  apply BitVec.eq_of_getLsbD_eq
  intro k hk
  simp only [place, idOf, field, BitVec.getLsbD_and, BitVec.getLsbD_shiftLeft, BitVec.getLsbD_setWidth,
    BitVec.getLsbD_extractLsb']
  interval_cases k <;> simp

/-- The id bits of an encoded word. -/
theorem encode_and_id (i : Instr) : encode i &&& 0xF0000000#32 = place i.wordId 28 := by
  rw [and_id_bits, idOf_encode]

/-- The encoded word of an instruction matches its row of spec/opcode_table.json. -/
def EncodeMatchesRow.Statement (i : Instr) : Prop := encode i &&& opcodeMask i = opcodeMatch i

/-- A row whose mask is the id bits is matched by its id. -/
theorem encodeMatchesRow_of_id (i : Instr) (hmask : opcodeMask i = 0xF0000000#32) : EncodeMatchesRow.Statement i := by
  have hmatch : place i.wordId 28 = opcodeMatch i := by
    cases i <;> simp only [opcodeMask, opcodeMatch, Instr.wordId] at hmask ⊢ <;> revert hmask <;> decide
  unfold EncodeMatchesRow.Statement
  rw [hmask, encode_and_id, hmatch]

theorem EncodeMatchesRow.gateHeaderType0 (boardId : BoardId) (gateType : BitVec 3) (gateNumber : BitVec 16) :
    EncodeMatchesRow.Statement (.gateHeaderType0 boardId gateType gateNumber) := by
  apply BitVec.eq_of_getLsbD_eq
  intro k hk
  simp only [encode, encodePayload, opcodeMask, opcodeMatch, place, Instr.wordId, BitVec.getLsbD_and,
    BitVec.getLsbD_or, BitVec.getLsbD_shiftLeft, BitVec.getLsbD_setWidth]
  interval_cases k <;> simp

theorem EncodeMatchesRow.gateHeaderType1 (boardId : BoardId) (gateTimeFromGts : BitVec 11) (unused : BitVec 8) :
    EncodeMatchesRow.Statement (.gateHeaderType1 boardId gateTimeFromGts unused) := by
  apply BitVec.eq_of_getLsbD_eq
  intro k hk
  simp only [encode, encodePayload, opcodeMask, opcodeMatch, place, Instr.wordId, BitVec.getLsbD_and,
    BitVec.getLsbD_or, BitVec.getLsbD_shiftLeft, BitVec.getLsbD_setWidth]
  interval_cases k <;> simp

theorem EncodeMatchesRow.gtsHeader (gtsTag : GtsTag) : EncodeMatchesRow.Statement (.gtsHeader gtsTag) :=
  encodeMatchesRow_of_id _ rfl

theorem EncodeMatchesRow.hitTime (channelId : ChannelId) (hitId : HitId) (tagId : TagId) (edge : BitVec 1)
    (time : BitVec 13) (unused : BitVec 1) :
    EncodeMatchesRow.Statement (.hitTime channelId hitId tagId edge time unused) :=
  encodeMatchesRow_of_id _ rfl

theorem EncodeMatchesRow.hitAmplitude (channelId : ChannelId) (hitId : HitId) (tagId : TagId)
    (amplitudeId : BitVec 3) (amplitudeValue : BitVec 12) :
    EncodeMatchesRow.Statement (.hitAmplitude channelId hitId tagId amplitudeId amplitudeValue) :=
  encodeMatchesRow_of_id _ rfl

theorem EncodeMatchesRow.gtsTrailer1 (gtsTag : GtsTag) : EncodeMatchesRow.Statement (.gtsTrailer1 gtsTag) :=
  encodeMatchesRow_of_id _ rfl

theorem EncodeMatchesRow.gtsTrailer2 (data ocbBusy febBusy : BitVec 1) (gtsTime : BitVec 20) (unused : BitVec 5) :
    EncodeMatchesRow.Statement (.gtsTrailer2 data ocbBusy febBusy gtsTime unused) :=
  encodeMatchesRow_of_id _ rfl

theorem EncodeMatchesRow.gateTrailer (boardId : BoardId) (gateType : BitVec 3) (gateNumber : BitVec 16)
    (unused : BitVec 1) : EncodeMatchesRow.Statement (.gateTrailer boardId gateType gateNumber unused) :=
  encodeMatchesRow_of_id _ rfl

theorem EncodeMatchesRow.gateTime (time : BitVec 28) : EncodeMatchesRow.Statement (.gateTime time) :=
  encodeMatchesRow_of_id _ rfl

theorem EncodeMatchesRow.ocbPacketHeader (gateType : BitVec 3) (gateTag : BitVec 2) (eventNumber : BitVec 23) :
    EncodeMatchesRow.Statement (.ocbPacketHeader gateType gateTag eventNumber) :=
  encodeMatchesRow_of_id _ rfl

theorem EncodeMatchesRow.ocbPacketTrailer (gateType : BitVec 3) (gateTag : BitVec 2) (errors : BitVec 16)
    (unused : BitVec 7) : EncodeMatchesRow.Statement (.ocbPacketTrailer gateType gateTag errors unused) :=
  encodeMatchesRow_of_id _ rfl

theorem EncodeMatchesRow.reserved0xA (payload : BitVec 28) : EncodeMatchesRow.Statement (.reserved0xA payload) :=
  encodeMatchesRow_of_id _ rfl

theorem EncodeMatchesRow.holdTime (boardId : BoardId) (headerType : BitVec 1) (time : BitVec 11)
    (unused : BitVec 8) : EncodeMatchesRow.Statement (.holdTime boardId headerType time unused) :=
  encodeMatchesRow_of_id _ rfl

theorem EncodeMatchesRow.eventDone (boardId : BoardId) (gateNumber : BitVec 4) (wordCount : BitVec 16) :
    EncodeMatchesRow.Statement (.eventDone boardId gateNumber wordCount) :=
  encodeMatchesRow_of_id _ rfl

theorem EncodeMatchesRow.febDataPacketTrailer (boardId : BoardId)
    (artificialTrl2 eventDoneTimeout d1FifoFull d0FifoFull rbCntError : BitVec 1) (nbDecoderErrors : BitVec 15) :
    EncodeMatchesRow.Statement (.febDataPacketTrailer boardId artificialTrl2 eventDoneTimeout d1FifoFull d0FifoFull
      rbCntError nbDecoderErrors) :=
  encodeMatchesRow_of_id _ rfl

theorem EncodeMatchesRow.housekeeping (payload : BitVec 28) :
    EncodeMatchesRow.Statement (.housekeeping payload) :=
  encodeMatchesRow_of_id _ rfl

theorem EncodeMatchesRow.special (payload : BitVec 28) :
    EncodeMatchesRow.Statement (.special payload) :=
  encodeMatchesRow_of_id _ rfl

end Sys2Proof.Laws
end

