-- ==== Sys2Proof/Laws/Step.lean ====
section
/-! SUPPORT. What a step can do, said once: the result of a step of a word, and of a step of the machine, is one of the
listed states. -/

namespace Sys2Proof.Machine

/-- The fatal errors that the Stream Driver raises itself for a word (R271 to R273, R275). -/
def isDriverError : FatalError → Bool
  | .invalidWord _ => true
  | .nestedOcbHeader => true
  | .strayWord _ => true
  | .bufferOverflow => true
  | _ => false

/-- An append to a buffer with room. -/
theorem bufAppend_ok {s : State} (h : s.bufFull = false) (w : Instr) :
    s.bufAppend w = .ok { s with buf := append s.buf w } := by
  simp [State.bufAppend, h]

/-- An append to a full buffer. -/
theorem bufAppend_full {s : State} (h : s.bufFull = true) (w : Instr) : s.bufAppend w = .error .bufferOverflow := by
  simp [State.bufAppend, h]

/-- `State.hasRoom` is what the capacity test of the append tests. -/
theorem bufFull_of_hasRoom {s : State} (h : s.hasRoom) : s.bufFull = false := by
  unfold State.bufFull
  cases hm : s.params.maxOcbWords with
  | none => rfl
  | some limit => have := h limit hm; simp; omega

@[simp] theorem consume_bufFull (s : State) : s.consume.bufFull = s.bufFull := rfl

/-- A word of an interior kind runs `sdInner`. -/
theorem exec_interior (i : Instr) (s : State) (h : i.interior = true) : exec i s = wordStep (sdInner i) s := by
  cases i <;> first | rfl | simp [Instr.interior] at h

/-- What a stray word can do (R275). -/
theorem sdStray_cases (w : Instr) (s : State) :
    (s.params.strayPolicy = .discard ∧ sdStray w s = .ok s) ∨ sdStray w s = .error (.strayWord w.wordId) := by
  unfold sdStray; cases s.params.strayPolicy <;> simp

/-- What the rule of an interior kind can do (R273, R275). -/
theorem sdInner_cases (w : Instr) (s : State) :
    (s.insideOcb = true ∧ s.bufFull = false ∧ sdInner w s = .ok { s with buf := append s.buf w }) ∨
    (s.insideOcb = false ∧ s.params.strayPolicy = .discard ∧ sdInner w s = .ok s) ∨
    (∃ e, isDriverError e = true ∧ sdInner w s = .error e) := by
  unfold sdInner
  cases ho : s.insideOcb with
  | true =>
    cases hb : s.bufFull with
    | true => exact .inr (.inr ⟨_, rfl, bufAppend_full hb w⟩)
    | false => exact .inl ⟨rfl, rfl, by rw [if_pos rfl, bufAppend_ok hb w, ho]⟩
  | false =>
    rcases sdStray_cases w s with ⟨hp, h⟩ | h
    · exact .inr (.inl ⟨rfl, hp, by simpa using h⟩)
    · exact .inr (.inr ⟨_, rfl, by simpa using h⟩)

/-- What the rule of OCBPacketHeader can do (R272). -/
theorem sdOpen_cases (w : Instr) (s : State) :
    (s.insideOcb = false ∧ s.params.maxOcbWords ≠ some 0 ∧ sdOpen w s = .ok { s with buf := [w], insideOcb := true }) ∨
    (∃ e, isDriverError e = true ∧ sdOpen w s = .error e) := by
  unfold sdOpen
  cases ho : s.insideOcb with
  | true => exact .inr ⟨_, rfl, rfl⟩
  | false =>
    rw [if_neg Bool.false_ne_true]
    cases hb : State.bufFull { s with buf := [], insideOcb := true } with
    | true => exact .inr ⟨_, rfl, bufAppend_full hb w⟩
    | false =>
      refine .inl ⟨rfl, fun hm => ?_, bufAppend_ok hb w⟩
      simp [State.bufFull, hm] at hb

/-- What the rule of OCBPacketTrailer can do (R274, R275). -/
theorem sdClose_cases (w : Instr) (s : State) :
    (s.insideOcb = true ∧ s.bufFull = false ∧ ∃ ev warnings, ocbAssemble (append s.buf w) = .ok (ev, warnings) ∧
      sdClose w s = .ok (State.closeEnvelope { s with buf := append s.buf w } ev warnings)) ∨
    (s.insideOcb = false ∧ s.params.strayPolicy = .discard ∧ sdClose w s = .ok s) ∨
    (∃ e, isDriverError e = true ∧ sdClose w s = .error e) ∨
    (s.insideOcb = true ∧ ∃ e, ocbAssemble (append s.buf w) = .error e ∧ sdClose w s = .error e) := by
  unfold sdClose
  cases ho : s.insideOcb with
  | true =>
    rw [if_pos rfl]
    cases hb : s.bufFull with
    | true => exact .inr (.inr (.inl ⟨_, rfl, by rw [bufAppend_full hb w]⟩))
    | false =>
      rw [bufAppend_ok hb w]
      cases ha : ocbAssemble (append s.buf w) with
      | error e => exact .inr (.inr (.inr ⟨rfl, e, rfl, by simp only [ha]⟩))
      | ok p => exact .inl ⟨rfl, rfl, p.1, p.2, rfl, by simp only [ha, ← ho]⟩
  | false =>
    rw [if_neg Bool.false_ne_true]
    rcases sdStray_cases w s with ⟨hp, h⟩ | h
    · exact .inr (.inl ⟨rfl, hp, h⟩)
    · exact .inr (.inr (.inl ⟨_, rfl, h⟩))

/-- What the execution of an instruction can do in a state that is not faulted. -/
theorem exec_cases (i : Instr) (s : State) (hf : s.fault = none) :
    (s.insideOcb = true ∧ i.interior = true ∧ s.bufFull = false ∧
      exec i s = .next (State.advance { s.consume with buf := append s.buf i })) ∨
    (s.insideOcb = false ∧ s.params.maxOcbWords ≠ some 0 ∧
      (∃ gateType gateTag eventNumber, i = .ocbPacketHeader gateType gateTag eventNumber) ∧
      exec i s = .next (State.advance { s.consume with buf := [i], insideOcb := true })) ∨
    (s.insideOcb = true ∧ s.bufFull = false ∧
      (∃ gateType gateTag errors unused, i = .ocbPacketTrailer gateType gateTag errors unused) ∧
      ∃ ev warnings, ocbAssemble (append s.buf i) = .ok (ev, warnings) ∧
        exec i s = .next (State.closeEnvelope { s.consume with buf := append s.buf i } ev warnings).advance) ∨
    (s.insideOcb = false ∧ s.params.strayPolicy = .discard ∧ exec i s = .next s.consume.advance) ∨
    (∃ e, exec i s = .next (s.consume.raise e) ∧
      (isDriverError e = true ∨
        (s.insideOcb = true ∧ (∃ gateType gateTag errors unused, i = .ocbPacketTrailer gateType gateTag errors unused) ∧
          ocbAssemble (append s.buf i) = .error e))) := by
  by_cases hi : i.interior = true
  · rw [exec_interior i s hi]
    rcases sdInner_cases i s.consume with ⟨ho, hb, h⟩ | ⟨ho, hp, h⟩ | ⟨e, he, h⟩
    · exact .inl ⟨ho, hi, hb, wordStep_ok hf h⟩
    · exact .inr (.inr (.inr (.inl ⟨ho, hp, wordStep_ok hf h⟩)))
    · exact .inr (.inr (.inr (.inr ⟨e, wordStep_error hf h, .inl he⟩)))
  · cases i with
    | ocbPacketHeader a b c =>
      rcases sdOpen_cases (.ocbPacketHeader a b c) s.consume with ⟨ho, hm, h⟩ | ⟨e, he, h⟩
      · exact .inr (.inl ⟨ho, hm, ⟨a, b, c, rfl⟩, wordStep_ok hf h⟩)
      · exact .inr (.inr (.inr (.inr ⟨e, wordStep_error hf h, .inl he⟩)))
    | ocbPacketTrailer a b c d =>
      rcases sdClose_cases (.ocbPacketTrailer a b c d) s.consume with
        ⟨ho, hb, ev, ws, ha, h⟩ | ⟨ho, hp, h⟩ | ⟨e, he, h⟩ | ⟨ho, e, ha, h⟩
      · exact .inr (.inr (.inl ⟨ho, hb, ⟨a, b, c, d, rfl⟩, ev, ws, ha, wordStep_ok hf h⟩))
      · exact .inr (.inr (.inr (.inl ⟨ho, hp, wordStep_ok hf h⟩)))
      · exact .inr (.inr (.inr (.inr ⟨e, wordStep_error hf h, .inl he⟩)))
      · exact .inr (.inr (.inr (.inr ⟨e, wordStep_error hf h, .inr ⟨ho, ⟨a, b, c, d, rfl⟩, ha⟩⟩)))
    | reserved0xA _ =>
      exact .inr (.inr (.inr (.inr ⟨_, wordStep_error (rule := sdInvalid 0xA#4) hf rfl, .inl rfl⟩)))
    | _ => exact absurd rfl hi

/-- In the faulted state every instruction only consumes its word. -/
theorem exec_faulted (i : Instr) (s : State) (h : s.fault.isSome = true) : exec i s = .next s.consume := by
  have hw : ∀ rule, wordStep rule s = .next s.consume := fun rule => by simp [wordStep, h]
  cases i <;> first | exact hw _ | exact hw (sdInvalid 0xA#4)

/-- A step on a word is the execution of its decoded instruction; the other steps wait, end or truncate. -/
theorem step_of_nil {s : State} (h : s.input = []) : step s = .next s := by simp [step, State.nextItem, h]

theorem step_of_word {s : State} {raw : Word} {rest : List InputItem} (h : s.input = .word raw :: rest) :
    step s = exec (decode raw) s := by simp [step, State.nextItem, h]

theorem step_of_end {s : State} {rest : List InputItem} (h : s.input = .endOfStream :: rest) :
    step s = endStep s := by simp [step, State.nextItem, h]

/-- What the step of an `End` can do (R276). -/
theorem endStep_cases (s : State) :
    ((s.fault.isSome = true ∨ s.insideOcb = false) ∧ endStep s = .next s.consume) ∨
    (s.fault = none ∧ s.insideOcb = true ∧ endStep s = .next (s.consume.raise (.truncatedStream s.buf.length))) := by
  unfold endStep
  cases s.fault <;> cases s.insideOcb <;> simp

/-! ### Runs -/

/-- One step of a run of the core. -/
theorem core_run_next {s t : State} (k : Nat) (h : step s = .next t) :
    Sys2Proof.core.run (k + 1) s = Sys2Proof.core.run k t := by
  have h' : Sys2Proof.core.step s = .next t := h
  simp only [Host.Core.run, h']

/-- A run of `a + b` steps is a run of `b` steps from where a run of `a` steps ends. -/
theorem core_run_add (a b : Nat) (s t : State) (h : Sys2Proof.core.run a s = .next t) :
    Sys2Proof.core.run (a + b) s = Sys2Proof.core.run b t := by
  induction a generalizing s with
  | zero => cases h; rw [Nat.zero_add]
  | succ a ih =>
    rw [Nat.add_right_comm]
    simp only [Host.Core.run] at h ⊢
    split at h
    · exact ih _ h
    · cases h
    · cases h

end Sys2Proof.Machine
end

