-- ==== Sys2Proof/Tests/Slice0.lean ====
section
/-! SUPPORT. Tests: the form check, one word of each kind, one-step tests on the vectors of spec/95_test_vectors.md, and
for each statement with hypotheses a state and operands that meet them. Expected values are the spec's. -/

namespace Sys2Proof.Tests

open Sys2Proof.Machine

/-! ### Form (spec/40_word_decoder.md R141, R147) -/

theorem test_wellFormed_refuses_reserved : Instr.wellFormed (.reserved0xA 0xFFFFFFF#28) = false := by
  decide

theorem test_wellFormed_accepts_ids_beside :
    Instr.wellFormed (.ocbPacketTrailer 0#3 0#2 0#16) = true ∧ Instr.wellFormed (.holdTime 0#8 0#1 0#11) = true := by
  decide

theorem test_wordDecode_refuses_reserved : wordDecode 0xAFFFFFFF#32 = .error (.invalidWord 0xA#4) := by decide

/-! ### Decoding, words written out from R91 to R108 (spec/95_test_vectors.md part 2) -/

theorem test_decode_gateHeaderType0 :
    decode 0b0000_11111111_0_111_1111111111111111#32 = .gateHeaderType0 255#8 7#3 0xFFFF#16 := by decide

theorem test_decode_gateHeaderType1 :
    decode 0b0000_00000000_1_11111111_00000000001#32 = .gateHeaderType1 0#8 1#11 0xFF#8 := by decide

theorem test_decode_gtsHeader :
    decode 0b0001_1010101111001101111011110001#32 = .gtsHeader 0xABCDEF1#28 := by decide

theorem test_decode_hitTime :
    decode 0b0010_01111111_101_10_1_0_1101010111100#32 = .hitTime 127#8 5#3 2#2 1#1 6844#13 0#1 := by decide

theorem test_decode_hitTime_bit13_is_in_no_field :
    decode 0b0010_00000001_000_00_0_1_0000000000000#32 = .hitTime 1#8 0#3 0#2 0#1 0#13 1#1 := by decide

theorem test_decode_hitAmplitude :
    decode 0b0011_01000010_001_11_010_111111111111#32 = .hitAmplitude 66#8 1#3 3#2 2#3 4095#12 := by decide

theorem test_decode_gtsTrailer1 : decode 0b0100_0000000000000000000000010001#32 = .gtsTrailer1 0x11#28 := by decide

theorem test_decode_gtsTrailer2 :
    decode 0b0101_1_0_1_00000_11111111111111111111#32 = .gtsTrailer2 1#1 0#1 1#1 0xFFFFF#20 0#5 := by decide

theorem test_decode_gateTrailer :
    decode 0b0110_00001000_0_001_1011111011101111#32 = .gateTrailer 8#8 1#3 0xBEEF#16 0#1 := by decide

theorem test_decode_gateTime : decode 0b0111_0001001000110100010101100111#32 = .gateTime 0x1234567#28 := by decide

theorem test_decode_ocbPacketHeader :
    decode 0b1000_010_01_11111111111111111111111#32 = .ocbPacketHeader 2#3 1#2 0x7FFFFF#23 := by decide

theorem test_decode_ocbPacketTrailer :
    decode 0b1001_010_01_0000000_1000000000000001#32 = .ocbPacketTrailer 2#3 1#2 0x8001#16 0#7 := by decide

theorem test_decode_reserved0xA :
    decode 0b1010_1111111111111111111111111111#32 = .reserved0xA 0xFFFFFFF#28 := by decide

theorem test_decode_holdTime :
    decode 0b1011_00000001_1_00000000_11111111111#32 = .holdTime 1#8 1#1 2047#11 0#8 := by decide

theorem test_decode_eventDone : decode 0b1100_00000001_1111_0000000001100011#32 = .eventDone 1#8 15#4 99#16 := by
  decide

theorem test_decode_febDataPacketTrailer :
    decode 0b1101_00000010_1_0_1_0_1_111111111111111#32 =
      .febDataPacketTrailer 2#8 1#1 0#1 1#1 0#1 1#1 32767#15 := by decide

theorem test_decode_housekeeping : decode 0b1110_0000000100100011010001010110#32 = .housekeeping 0x0123456#28 := by
  decide

theorem test_decode_special : decode 0b1111_1111111111111111111111111111#32 = .special 0xFFFFFFF#28 := by decide

/-- R109: the unused bits "remain in `w.raw`", of each of the six layouts that have some. -/
theorem test_raw_keeps_unused_bits :
    [0x000FF801#32, 0x20102000#32, 0x51F00005#32, 0x60080000#32, 0x907F0000#32, 0xB007F800#32].map
        (fun raw => (decode raw).raw) =
      [0x000FF801#32, 0x20102000#32, 0x51F00005#32, 0x60080000#32, 0x907F0000#32, 0xB007F800#32] := by decide

theorem test_encode_clears_unused_bits :
    encode (decode 0x000FF801#32) = 0x00080001#32 ∧ encode (decode 0x51F00005#32) = 0x50000005#32 ∧
      encode (decode 0x907F0000#32) = 0x90000000#32 ∧ encode (decode 0xB007F800#32) = 0xB0000000#32 := by decide

/-! ### The assembly notation: Scenario A as spec/95_test_vectors.md 1.1 writes it (R14, R115) -/

theorem test_assemble_scenarioA_line :
    (AsmLine.fields .hitTime [(.ch, 1), (.hit, 0), (.tag, 0), (.edge, 1), (.t, 1)]).assemble = some 0x20104001#32 := by
  decide

theorem test_assemble_short_names :
    (AsmLine.fields .ocbHeader [(.gt, 1), (.tag, 2), (.evt, 7)]).assemble = some 0x83000007#32 ∧
      (AsmLine.fields .hitTime [(.gtsTime, 1)]).assemble = none := by decide

/-! ### States for the tests -/

/-- A block outside any envelope whose next item is `raw`. -/
def outside (raw : Word) : State := { State.reset with input := [.word raw] }

/-- A block inside an envelope that holds `words`, its next item `raw`. -/
def inside (words : List Word) (raw : Word) : State :=
  { State.reset with input := [.word raw], pos := words.length, buf := words.map decode, insideOcb := true }

/-- The same with the buffer's capacity at `limit`. -/
def insideOf (limit : Nat) (words : List Word) (raw : Word) : State :=
  { inside words raw with params := { strayPolicy := .fault, maxOcbWords := some limit } }

/-- What a step emits. -/
def outAfter (s : State) : List OutItem :=
  match step s with
  | .next t => t.out
  | _ => []

/-- The state after a step. -/
def after (s : State) : State :=
  match step s with
  | .next t => t
  | _ => s

/-- A merged HitTime record in the notation of spec/95_test_vectors.md. -/
def recT (c : ChannelId) (h : HitId) (x : BitVec 13) (i : TagId) (g : GtsTag)
    (fall : Option (BitVec 13 × TagId × GtsTag)) : MergedHitTime :=
  { channelId := c, hitId := h, riseTime := x, riseTagId := i, riseGtsTag := some g, fallTime := fall.map (·.1),
    fallTagId := fall.map (·.2.1), fallGtsTag := fall.map (·.2.2) }

/-- A merged HitAmplitude record in the same notation. -/
def recA (c : ChannelId) (lg hg : Option (BitVec 12 × TagId × GtsTag)) : MergedHitAmplitude :=
  { channelId := c, lgAmplitude := lg.map (·.1), lgTagId := lg.map (·.2.1), lgGtsTag := lg.map (·.2.2),
    hgAmplitude := hg.map (·.1), hgTagId := hg.map (·.2.1), hgGtsTag := hg.map (·.2.2) }

/-- Six zero status items. -/
def noFlags : TrailerStatus := FARegs.start.status

/-- Scenario A without its trailer. -/
def scenarioA : List Word :=
  [0x80000001#32, 0x00100000#32, 0x10000010#32, 0x20100000#32, 0x20104001#32, 0x40000010#32, 0x50000005#32,
   0xD0100000#32]

/-- Scenario A's packet. -/
def packetA : FEBPacket :=
  { boardId := 1#8, holdTime := none, gtsTimeMap := [(0x10#28, 5#20)],
    hitTimes := [recT 1#8 0#3 0#13 0#2 0x10#28 (some (1#13, 0#2, 0x10#28))], hitAmplitudes := [], status := noFlags }

/-! ### One step of each kind of word -/

theorem test_step_header_opens :
    (after (outside 0x80000001#32)).insideOcb = true ∧ (after (outside 0x80000001#32)).buf.length = 1 ∧
      (after (outside 0x80000001#32)).pos = 1 := by decide

theorem test_step_header_nested :
    outAfter (inside [0x80000001#32, 0x00100000#32] 0x80000002#32) =
      [.fault { error := .nestedOcbHeader, pos := 2 }] := by decide

/-- Scenario A (1.1). -/
theorem test_step_trailer_scenarioA :
    outAfter (inside scenarioA 0x90000000#32) =
      [.event (({ OCBEvent.start with eventNumber := 1#23 } : OCBEvent).fill 1 packetA) []] := by decide

/-- Scenario F (1.6) with the label of bit 15. -/
theorem test_step_trailer_scenarioF :
    outAfter (inside scenarioA 0x90008000#32) =
        [.event (({ OCBEvent.start with eventNumber := 1#23, errors := 0x8000#16 } : OCBEvent).fill 1 packetA) []] ∧
      (trailerErrorBit 15).label = some "Gate open timeout" := by decide

/-- Scenario C (1.3). -/
theorem test_step_trailer_scenarioC :
    outAfter (inside (0x84000003#32 :: scenarioA.tail) 0x96000000#32) =
      [.fault { error := .ocbEnvelopeMismatch 2#3 0#2 3#3 0#2, pos := 8 }] := by decide

/-- Scenario D, EventDone before the FEBTrailer (1.4). -/
theorem test_step_trailer_scenarioD :
    outAfter (inside (scenarioA.take 7 ++ [0xC0100063#32, 0xD0100000#32]) 0x90000000#32) =
      [.event (({ OCBEvent.start with eventNumber := 1#23 } : OCBEvent).fill 1 packetA)
        [.wordCountMismatch 7 99 0]] := by decide

/-- Scenario E (1.5). -/
theorem test_step_trailer_scenarioE :
    outAfter (inside (scenarioA.take 4 ++ [0x20100002#32] ++ scenarioA.drop 4) 0x90000000#32) =
      [.fault { error := .duplicateRisingEdge 1#8 0#3, pos := 9 }] := by decide

/-- Scenario B: the late falling edge completes the record of the previous interval (1.2). -/
theorem test_late_hit_scenarioB :
    ((febAssemble ([0x00100000#32, 0x10000010#32, 0x20100003#32, 0x40000010#32, 0x50000005#32, 0x10000011#32,
        0x20104007#32, 0x20208009#32, 0x40000011#32, 0x50000006#32, 0xD0100000#32].map decode)).toOption.map
        FEBPacket.hitTimes) =
      some [recT 1#8 0#3 3#13 0#2 0x10#28 (some (7#13, 0#2, 0x10#28)), recT 2#8 0#3 9#13 1#2 0x11#28 none] := by decide

/-- G9: completed records in falling-edge order, then the others by ascending key. -/
theorem test_gts_order_G9 :
    ((gtsAssemble 1#8 (some 0x10#28) ([0x2052000A#32, 0x2026000B#32, 0x2022000C#32, 0x2070000D#32, 0x2070400E#32,
        0x2026400F#32].map decode)).toOption.map fun p => p.1.map fun m => (m.channelId.toNat, m.hitId.toNat)) =
      some [(7, 0), (2, 3), (2, 1), (5, 1)] := by decide

/-- G16: ascending channel, amplitude_id 7 is low gain. -/
theorem test_gts_gains_G16 :
    (gtsAssemble 1#8 (some 0x10#28) ([0x30901001#32, 0x30302002#32, 0x30902003#32, 0x3C807004#32].map decode)) =
      .ok ([], [recA 3#8 none (some (2#12, 0#2, 0x10#28)),
        recA 9#8 (some (1#12, 0#2, 0x10#28)) (some (3#12, 0#2, 0x10#28)),
        recA 200#8 (some (4#12, 0#2, 0x10#28)) none]) := by decide

/-- G17: the HitTime pass runs first. -/
theorem test_gts_passes_G17 :
    gtsAssemble 1#8 (some 0x10#28) ([0x30501001#32, 0x30501002#32, 0x20104003#32].map decode) =
      .error (.fallingBeforeRising 1#8 0#3) := by decide

/-- O14: GateHeader of type 1 counted twice over, GateTime, HoldTime; EventDone 5 agrees. -/
theorem test_counts_O14 :
    ((ocbAssemble ([0x80000000#32, 0x00200000#32, 0x00280005#32, 0xB0280003#32, 0x70000009#32, 0xD0200000#32,
        0xC0200005#32, 0x90000000#32].map decode)).toOption.map Prod.snd) = some [] := by decide

/-- O7: Housekeeping and Special in the walk. -/
theorem test_unexpected_O7 :
    ((ocbAssemble ([0x80000000#32, 0xE0123456#32, 0x00200000#32, 0xFFFFFFFF#32, 0xD0200000#32,
        0x90000000#32].map decode)).toOption.map Prod.snd) =
      some [.unexpectedWord 1 14#4, .unexpectedWord 3 15#4] := by decide

/-- P3: the counts of three intervals with GTS-level words and a GateTrailer, EventDone 10 equal. -/
theorem test_counts_P3 :
    ((ocbAssemble ([0x83000007#32, 0x00210007#32, 0x00280003#32, 0xB0200055#32, 0x10000020#32, 0x40000020#32,
        0x50000064#32, 0x10000021#32, 0x2042800A#32, 0x40000021#32, 0x500000C8#32, 0x10000022#32, 0x2042C01E#32,
        0x304311F4#32, 0x30432384#32, 0x40000022#32, 0x5000012C#32, 0x60210007#32, 0x70001000#32, 0xC027000A#32,
        0xD0200000#32, 0x93000000#32].map decode)).toOption.map Prod.snd) = some [.unexpectedWord 17 6#4] := by decide

/-- S6b: the reserved id is raised at ingestion. -/
theorem test_step_reserved : outAfter (inside [0x80000000#32] 0xAFFFFFFF#32) =
    [.fault { error := .invalidWord 0xA#4, pos := 1 }] := by decide

/-- S4 and S4f: a stray word under either policy. -/
theorem test_step_stray :
    outAfter (outside 0x20100000#32) = [] ∧ (after (outside 0x20100000#32)).pos = 1 ∧
      outAfter { outside 0x20100000#32 with params := { strayPolicy := .fault, maxOcbWords := none } } =
        [.fault { error := .strayWord 2#4, pos := 0 }] := by decide

/-- S3: the `End` item inside an envelope. -/
theorem test_step_end :
    outAfter { inside [0x80000000#32] 0#32 with input := [.endOfStream] } =
      [.fault { error := .truncatedStream 1, pos := 1 }] := by decide

/-- A full buffer (R70, R273). -/
theorem test_step_overflow : outAfter (insideOf 1 [0x80000000#32] 0x00100000#32) =
    [.fault { error := .bufferOverflow, pos := 1 }] := by decide

/-- P5a: the step after a fault only consumes its word. -/
theorem test_step_faulted :
    (after { outside 0x90000000#32 with fault := some { error := .nestedOcbHeader, pos := 2 }, pos := 2 }).pos = 2 := by
  decide

/-- The word placed for the host is the next one to run. -/
theorem test_withFetchWord : (after (State.reset.withFetchWord 32 0x80000001)).buf = [decode 0x80000001#32] := by decide

/-- R61: both byte orders of the same four bytes. -/
theorem test_bytes :
    wordOfBytes .little 0x01#8 0x00#8 0x00#8 0x80#8 = 0x80000001#32 ∧
      wordOfBytes .big 0x80#8 0x00#8 0x00#8 0x01#8 = 0x80000001#32 := by decide

/-- A run that gives a result gives a pair. -/
theorem exists_pair_of_toOption {α β : Type} {x : Except FatalError (α × β)} (h : x.toOption.isSome = true) :
    ∃ a b, x = .ok (a, b) := by
  cases x with
  | error e => cases h
  | ok p => exact ⟨p.1, p.2, rfl⟩

/-! ### Witnesses: states and operands that meet the hypotheses of each statement -/

theorem witness_DecodeEncodeRoundTrip :
    Instr.wellFormed (.holdTime 255#8 1#1 2047#11) = true ∧ idOf 0x9FFFFFFF#32 ≠ 0xA#4 ∧ idOf 0xB0000000#32 ≠ 0xA#4 := by
  decide

theorem witness_OnlyReservedIdIsInvalid :
    idOf 0xA0000000#32 = 0xA#4 ∧ idOf 0xAFFFFFFF#32 = 0xA#4 ∧ idOf 0x9FFFFFFF#32 ≠ 0xA#4 ∧ idOf 0xB0000000#32 ≠ 0xA#4 := by
  decide

theorem witness_UnusedBitsAreIgnored :
    unusedBits (decode 0x000FF801#32) = 0x0007F800#32 ∧
      ∃ t, exec (decode 0x000FF801#32) (inside [0x80000000#32, 0x200FE000#32] 0x000FF801#32) = .next t := ⟨by decide, _, rfl⟩

theorem witness_WordMatchesItsOpcodeRow :
    0x000FF801#32 &&& opcodeMask (.gateHeaderType1 0#8 0#11) = opcodeMatch (.gateHeaderType1 0#8 0#11) ∧
      ¬ 0x000FF801#32 &&& opcodeMask (.gateHeaderType0 0#8 0#3 0#16) = opcodeMatch (.gateHeaderType0 0#8 0#3 0#16) := by
  decide

theorem witness_StepRunsDecodedInstruction : (outside 0x80000001#32).input = .word 0x80000001#32 :: [] := by decide

theorem witness_WaitingHoldsState : State.reset.input = [] := by decide

theorem witness_FaultedBlockIgnoresItems :
    ({ outside 0x90000000#32 with fault := some { error := .nestedOcbHeader, pos := 2 } } : State).fault ≠ none := by
  decide

theorem witness_EndOfStreamTruncates :
    ({ inside [0x80000000#32] 0#32 with input := [.endOfStream] } : State).input = .endOfStream :: [] ∧
      (inside [0x80000000#32] 0#32).fault = none ∧ (inside [0x80000000#32] 0#32).insideOcb = true ∧
      ({ State.reset with input := [.endOfStream] } : State).input = .endOfStream :: [] ∧
      State.reset.fault = none ∧ State.reset.insideOcb = false := by decide

theorem witness_PositionAdvancesByOne :
    (outside 0x80000001#32).input = .word 0x80000001#32 :: [] ∧ (outside 0x80000001#32).fault = none ∧
      ∃ t, step (outside 0x80000001#32) = .next t ∧ t.fault = none := ⟨by decide, by decide, _, rfl, rfl⟩

theorem witness_FatalErrorIsTaken :
    (outside 0xA0000000#32).fault = none ∧ ∃ t, step (outside 0xA0000000#32) = .next t ∧ t.fault ≠ none :=
  ⟨by decide, _, rfl, by decide⟩

/-- The buffer one word short of its capacity: the hypotheses of every statement about a word inside an envelope with
room. -/
theorem witness_inside_with_room :
    (insideOf 2 [0x80000000#32] 0x00100000#32).fault = none ∧ (insideOf 2 [0x80000000#32] 0x00100000#32).insideOcb = true ∧
      (insideOf 2 [0x80000000#32] 0x00100000#32).hasRoom :=
  ⟨by decide, by decide, fun limit h => by cases h; decide⟩

theorem witness_GateWordsAreBuffered :
    (inside [0x80000000#32] 0x00100000#32).fault = none ∧ (inside [0x80000000#32] 0x00100000#32).insideOcb = true ∧
      (inside [0x80000000#32] 0x00100000#32).hasRoom := ⟨by decide, by decide, fun limit h => by cases h⟩

theorem witness_GtsLevelWordsAreBuffered :
    (inside [0x80000000#32] 0x20100000#32).fault = none ∧ (inside [0x80000000#32] 0x20100000#32).insideOcb = true ∧
      (inside [0x80000000#32] 0x20100000#32).hasRoom := ⟨by decide, by decide, fun limit h => by cases h⟩

theorem witness_PacketWordsAreBuffered :
    (inside [0x80000000#32] 0xC0100063#32).fault = none ∧ (inside [0x80000000#32] 0xC0100063#32).insideOcb = true ∧
      (inside [0x80000000#32] 0xC0100063#32).hasRoom := ⟨by decide, by decide, fun limit h => by cases h⟩

theorem witness_InteriorWordAppendsOrOverflows :
    Instr.interior (.gateTime 0#28) = true ∧
      (insideOf 2 [0x80000000#32] 0x70000000#32).fault = none ∧
      (insideOf 2 [0x80000000#32] 0x70000000#32).insideOcb = true ∧
      (insideOf 2 [0x80000000#32] 0x70000000#32).hasRoom ∧
      (insideOf 1 [0x80000000#32] 0x70000000#32).fault = none ∧
      (insideOf 1 [0x80000000#32] 0x70000000#32).insideOcb = true ∧
      (insideOf 1 [0x80000000#32] 0x70000000#32).params.maxOcbWords =
        some (insideOf 1 [0x80000000#32] 0x70000000#32).buf.length :=
  ⟨by decide, by decide, by decide, fun limit h => by cases h; decide, by decide, by decide, by decide⟩

theorem witness_HeaderOpensEnvelope :
    (outside 0x80000000#32).fault = none ∧ (outside 0x80000000#32).insideOcb = false ∧
      (outside 0x80000000#32).params.maxOcbWords ≠ some 0 ∧
      (insideOf 1 [] 0x80000000#32).params.maxOcbWords ≠ some 0 ∧
      ({ insideOf 0 [] 0x80000000#32 with insideOcb := false } : State).params.maxOcbWords = some 0 ∧
      ({ insideOf 0 [] 0x80000000#32 with insideOcb := false } : State).fault = none ∧
      (inside [0x80000000#32] 0x80000000#32).insideOcb = true ∧ (inside [0x80000000#32] 0x80000000#32).fault = none := by
  decide

theorem witness_TrailerClosesEnvelope :
    (insideOf 1 [0x80000000#32] 0x90000000#32).fault = none ∧
      (insideOf 1 [0x80000000#32] 0x90000000#32).insideOcb = true ∧
      (insideOf 1 [0x80000000#32] 0x90000000#32).params.maxOcbWords =
        some (insideOf 1 [0x80000000#32] 0x90000000#32).buf.length ∧
      (inside [0x80000000#32] 0x90000000#32).fault = none ∧ (inside [0x80000000#32] 0x90000000#32).insideOcb = true ∧
      (inside [0x80000000#32] 0x90000000#32).hasRoom ∧
      (∃ ev warnings, ocbAssemble ((inside [0x80000000#32] 0x90000000#32).buf ++ [.ocbPacketTrailer 0#3 0#2 0#16]) =
        .ok (ev, warnings)) ∧
      ∃ e, ocbAssemble ((inside [0x80000000#32] 0x90800000#32).buf ++ [.ocbPacketTrailer 0#3 1#2 0#16]) = .error e :=
  ⟨by decide, by decide, by decide, by decide, by decide, fun limit h => (by cases h), ⟨_, _, rfl⟩, ⟨_, rfl⟩⟩

theorem witness_EnvelopeWithoutFebGivesEmptyEvent :
    (inside [0x80000000#32, 0xE0123456#32] 0x90000000#32).fault = none ∧
      (inside [0x80000000#32, 0xE0123456#32] 0x90000000#32).insideOcb = true ∧
      (inside [0x80000000#32, 0xE0123456#32] 0x90000000#32).hasRoom ∧
      (inside [0x80000000#32, 0xE0123456#32] 0x90000000#32).buf =
        .ocbPacketHeader 0#3 0#2 0#23 :: [.housekeeping 0x0123456#28] ∧
      ∀ w ∈ [Instr.housekeeping 0x0123456#28], trailerStatus w = none :=
  ⟨by decide, by decide, fun limit h => (by cases h), by decide, by decide⟩

theorem witness_ReservedWordIsFatal : (outside 0xA0000000#32).fault = none := by decide

theorem witness_StrayWordsFollowPolicy :
    Instr.wellFormed (.ocbPacketTrailer 0#3 0#2 0#16) = true ∧
      (∀ gateType gateTag eventNumber,
        Instr.ocbPacketTrailer 0#3 0#2 0#16 ≠ .ocbPacketHeader gateType gateTag eventNumber) ∧
      (outside 0x90000000#32).fault = none ∧ (outside 0x90000000#32).insideOcb = false ∧
      (outside 0x90000000#32).params.strayPolicy = .discard ∧
      ({ insideOf 1 [] 0x90000000#32 with insideOcb := false } : State).params.strayPolicy = .fault :=
  ⟨by decide, fun _ _ _ => by simp, by decide, by decide, by decide, by decide⟩

theorem witness_StepKeepsStateForm :
    (inside scenarioA 0x90000000#32).wf = true ∧ ∃ t, step (inside scenarioA 0x90000000#32) = .next t :=
  ⟨by decide, _, rfl⟩

theorem witness_StepKeepsEventsWellFormed :
    Memory.wf (inside scenarioA 0x90000000#32).insideOcb (inside scenarioA 0x90000000#32).buf = true ∧
      (inside scenarioA 0x90000000#32).out.all OutItem.wf = true ∧
      ∃ t, step (inside scenarioA 0x90000000#32) = .next t := ⟨by decide, by decide, _, rfl⟩

theorem witness_ContractErrorsAreUnreachable :
    Memory.wf (inside [0x80000000#32, 0xD0200000#32] 0x90000000#32).insideOcb
        (inside [0x80000000#32, 0xD0200000#32] 0x90000000#32).buf = true ∧
      (inside [0x80000000#32, 0xD0200000#32] 0x90000000#32).fault = none ∧
      ∃ t record, step (inside [0x80000000#32, 0xD0200000#32] 0x90000000#32) = .next t ∧ t.fault = some record :=
  ⟨by decide, by decide, _, _, rfl, rfl⟩

/-- GTS registers with one open record of channel 255, hit 7. -/
def oneOpen : GARegs := { GARegs.start with timeMap := [(2047, recT 255#8 7#3 0#13 0#2 0x10#28 none)] }

theorem witness_RisingEdgeOpensRecord :
    KeyMap.find (timeKey 255#8 7#3) oneOpen.timeMap ≠ none ∧ KeyMap.find (timeKey 0#8 0#3) oneOpen.timeMap = none := by
  decide

theorem witness_FallingEdgeCompletesRecord :
    KeyMap.wf oneOpen.timeMap = true ∧ KeyMap.find (timeKey 0#8 0#3) oneOpen.timeMap = none ∧
      KeyMap.find (timeKey 255#8 7#3) oneOpen.timeMap = some (recT 255#8 7#3 0#13 0#2 0x10#28 none) := by decide

theorem witness_MergeMapsKeepTheirForm :
    KeyMap.wf oneOpen.timeMap = true ∧ KeyMap.wf oneOpen.ampMap = true ∧
      (∃ r', gaTimeVisit 1#8 none (.hitTime 255#8 7#3 0#2 1#1 5#13) oneOpen = .ok r') ∧
      ∃ r', gaAmpVisit 1#8 none (.hitAmplitude 0#8 0#3 0#2 2#3 5#12) oneOpen = .ok r' :=
  ⟨by decide, by decide, ⟨_, rfl⟩, ⟨_, rfl⟩⟩

/-- GTS registers whose channel 5 has both gains. -/
def bothGains : GARegs :=
  { GARegs.start with ampMap := [(5, recA 5#8 (some (0#12, 0#2, 0x10#28)) (some (1#12, 0#2, 0x10#28)))] }

theorem witness_AmplitudeSetsOneGain :
    ((KeyMap.find (5#8 : ChannelId).toNat bothGains.ampMap).map MergedHitAmplitude.hgAmplitude) = some (some 1#12) ∧
      ((KeyMap.find (5#8 : ChannelId).toNat bothGains.ampMap).map MergedHitAmplitude.lgAmplitude) = some (some 0#12) ∧
      KeyMap.find (255#8 : ChannelId).toNat bothGains.ampMap = none := by decide

theorem witness_BlockWithoutHitsIsEmpty :
    ∀ w ∈ [0x10000010#32, 0x40000010#32, 0x50000005#32].map decode, hitTagId w = none := by decide

/-- The runs of the statements about a successful GTS Assembler run: the block of G18. -/
theorem witness_OneTimeRecordPerRisingEdge :
    ∃ timeOut ampOut, gtsAssemble 1#8 (some 0x10#28) ([0x10000010#32, 0x20100005#32, 0x30101032#32, 0x20104006#32,
      0x3010203C#32, 0x40000010#32, 0x50000005#32].map decode) = .ok (timeOut, ampOut) ∧ timeOut ≠ [] ∧ ampOut ≠ [] :=
  ⟨_, _, rfl, by decide, by decide⟩

/-- The block of G9: two completed records, then two rising-only ones. -/
theorem witness_OneTimeRecordPerRisingEdge_order :
    ∃ timeOut ampOut, gtsAssemble 1#8 (some 0x10#28) ([0x2052000A#32, 0x2026000B#32, 0x2022000C#32, 0x2070000D#32,
      0x2070400E#32, 0x2026400F#32].map decode) = .ok (timeOut, ampOut) ∧
      timeOut.map (fun m => m.fallTime.isSome) = [true, true, false, false] := ⟨_, _, rfl, by decide⟩

theorem witness_OneAmplitudeRecordPerChannel :
    ∃ timeOut ampOut, gtsAssemble 1#8 (some 0x10#28) ([0x30901001#32, 0x30302002#32, 0x30902003#32,
      0x3C807004#32].map decode) = .ok (timeOut, ampOut) ∧ ampOut.length = 3 := ⟨_, _, rfl, by decide⟩

theorem witness_RecordsCarryTheRunsTag :
    ∃ timeOut ampOut, gtsAssemble 1#8 (some 0xFFFFFFF#28) ([0x2FFF9FFF#32, 0x2FFFDFFF#32, 0x3FFFAFFF#32].map decode) =
      .ok (timeOut, ampOut) ∧ timeOut ≠ [] ∧ ampOut ≠ [] := ⟨_, _, rfl, by decide, by decide⟩

theorem witness_CompletedRecordsShareTagBits :
    (∀ w ∈ [0x2FFF9FFF#32, 0x2FFFDFFF#32].map decode, ∀ t, hitTagId w = some t → t.toNat = (0xFFFFFFF#28).toNat % 4) ∧
      ∃ timeOut ampOut, gtsAssemble 1#8 (some 0xFFFFFFF#28) ([0x2FFF9FFF#32, 0x2FFFDFFF#32].map decode) =
        .ok (timeOut, ampOut) ∧ ∃ m ∈ timeOut, m.fallTime ≠ none :=
  ⟨by decide, _, _, rfl, _, List.mem_cons_self, by decide⟩

/-- FEB registers between two intervals: tag 0x11 open, tag 0x10 previous. -/
def twoTags : FARegs :=
  { FARegs.start with
    currentTag := some 0x11#28, currentWords := [.gtsHeader 0x11#28], previousTag := some 0x10#28,
    previousWords := [.gtsHeader 0x10#28] }

theorem witness_HitIsRoutedByTagBits :
    hitTagId (.hitTime 1#8 0#3 1#2 0#1 0#13) = some 1#2 ∧
      (∃ g, twoTags.currentTag = some g ∧ (1#2 : TagId).toNat = g.toNat % 4) ∧
      hitTagId (.hitTime 1#8 0#3 0#2 0#1 0#13) = some 0#2 ∧
      (∀ g, twoTags.currentTag = some g → (0#2 : TagId).toNat ≠ g.toNat % 4) ∧
      (∃ g, twoTags.previousTag = some g ∧ (0#2 : TagId).toNat = g.toNat % 4) ∧
      hitTagId (.hitAmplitude 1#8 0#3 3#2 0#3 0#12) = some 3#2 ∧
      (∀ g, twoTags.currentTag = some g → (3#2 : TagId).toNat ≠ g.toNat % 4) ∧
      (∀ g, twoTags.previousTag = some g → (3#2 : TagId).toNat ≠ g.toNat % 4) ∧
      ∀ g, FARegs.start.currentTag = some g → (0#2 : TagId).toNat ≠ g.toNat % 4 :=
  ⟨by decide, ⟨_, rfl, by decide⟩, by decide, fun g h => by cases h; decide, ⟨_, rfl, by decide⟩, by decide,
   fun g h => by cases h; decide, fun g h => by cases h; decide, fun g h => by cases h⟩

theorem witness_Trailer1ChecksTheTag :
    twoTags.currentTag = some 0x11#28 ∧ twoTags.currentTag ≠ some 0x8000011#28 ∧ FARegs.start.currentTag ≠ some 0#28 := by
  decide

theorem witness_Trailer2ClosesInterval :
    FARegs.start.currentWords = [] ∧ twoTags.currentWords ≠ [] ∧ twoTags.currentTag = some 0x11#28 ∧
      ({ twoTags with previousWords := [] } : FARegs).previousWords = [] ∧ twoTags.previousWords ≠ [] ∧
      gtsAssemble twoTags.boardId twoTags.previousTag twoTags.previousWords = .ok ([], []) ∧
      gtsAssemble 0#8 (some 0x10#28) [.hitTime 1#8 0#3 0#2 1#1 0#13] = .error (.fallingBeforeRising 1#8 0#3) := by decide

theorem witness_WindowsWithWordsHaveTags :
    twoTags.windowsWf ∧ ∃ r', faVisit (.gtsTrailer2 0#1 0#1 0#1 0#20) twoTags = .ok r' :=
  ⟨⟨by decide, by decide⟩, _, rfl⟩

theorem witness_SliceContractIsChecked :
    [Instr.gtsHeader 0#28, .febDataPacketTrailer 0#8 0#1 0#1 0#1 0#1 0#1 0#15] ≠ [] ∧
      ([Instr.gtsHeader 0#28, .febDataPacketTrailer 0#8 0#1 0#1 0#1 0#1 0#1 0#15].head?.bind gateHeaderBoard) = none ∧
      ([Instr.gateHeaderType1 3#8 0#11].getLast?.bind trailerStatus) = none ∧
      gateHeaderBoard (.gateHeaderType1 3#8 0#11) = some 3#8 ∧
      trailerStatus (.febDataPacketTrailer 0#8 0#1 0#1 0#1 0#1 0#1 0#15) = some noFlags := by decide

/-- Vectors F2 and F3: a HoldTime at index 1 of three words, and one at index 2. -/
theorem witness_PacketCapturesFirstSecondLast :
    (∃ p, febAssemble ([0x00300000#32, 0xB0300007#32, 0xD0300000#32].map decode) = .ok p ∧ p.holdTime = some 7#11) ∧
      (∃ p, febAssemble ([0x00300000#32, 0x00380009#32, 0xB0300007#32, 0xD0300000#32].map decode) = .ok p ∧
        p.holdTime = none) ∧
      memRead ([0x00300000#32, 0xB0300007#32, 0xD0300000#32].map decode) 1 = some (.holdTime 3#8 0#1 7#11) ∧
      memRead ([0x00300000#32, 0x00380009#32, 0xB0300007#32, 0xD0300000#32].map decode) 1 =
        some (.gateHeaderType1 3#8 9#11) := ⟨⟨_, rfl, by decide⟩, ⟨_, rfl, by decide⟩, by decide, by decide⟩

theorem witness_TimeMapFollowsTrailers :
    ∃ p, febAssemble (scenarioA.tail.map decode) = .ok p ∧ p.gtsTimeMap.map Prod.snd = [5#20] :=
  ⟨_, rfl, by decide⟩

theorem witness_PacketKeepsEveryRisingEdge :
    ∃ p, febAssemble (scenarioA.tail.map decode) = .ok p ∧ p.hitTimes.length = 1 := ⟨_, rfl, by decide⟩

/-- Both windows hold an open time record at the end; the errors of either flush. -/
theorem witness_UnterminatedIntervalIsKept_end :
    ([0x00300000#32, 0xD0300000#32].map decode).head?.bind gateHeaderBoard = some 3#8 ∧
      ([0x00300000#32, 0xD0300000#32].map decode).getLast?.bind trailerStatus = some noFlags ∧
      (∃ r, walk faVisit ([0x10000010#32, 0x20100003#32, 0x50000005#32, 0x10000011#32, 0x20208009#32].map decode)
          (faBegin 3#8 noFlags []) = .ok r ∧ ∃ r', faEnd r = .ok r' ∧
        r'.hitTimes = [recT 1#8 0#3 3#13 0#2 0x10#28 none, recT 2#8 0#3 9#13 1#2 0x11#28 none]) ∧
      ∃ r, walk faVisit ([0x10000010#32, 0x20104001#32].map decode) (faBegin 3#8 noFlags []) = .ok r ∧
        faEnd r = .error (.fallingBeforeRising 1#8 0#3) :=
  ⟨by decide, by decide, ⟨_, rfl, _, rfl, by decide⟩, ⟨_, rfl, by decide⟩⟩

theorem witness_UnterminatedIntervalIsKept :
    gateHeaderBoard (.gateHeaderType0 3#8 0#3 0#16) = some 3#8 ∧
      trailerStatus (.febDataPacketTrailer 3#8 0#1 0#1 0#1 0#1 0#1 0#15) = some noFlags ∧
      ∀ w ∈ [Instr.hitTime 1#8 0#3 0#2 0#1 1#13, .hitTime 1#8 0#3 0#2 1#1 2#13],
        ∃ t, hitTagId w = some t ∧ t.toNat = (0x10#28).toNat % 4 := by
  refine ⟨by decide, by decide, fun w hw => ?_⟩
  simp only [List.mem_cons, List.not_mem_nil, or_false] at hw
  rcases hw with rfl | rfl <;> exact ⟨0#2, rfl, by decide⟩

theorem witness_GateHeaderResetsCounters :
    (∃ b t u, memRead ([0x80000000#32, 0x00200000#32, 0x00280005#32].map decode) (OARegs.start.i + 1) =
        some (.gateHeaderType1 b t u)) ∧
      ∀ b t u, memRead ([0x80000000#32, 0x00200000#32].map decode) (OARegs.start.i + 1) ≠
        some (.gateHeaderType1 b t u) :=
  ⟨⟨2#8, 5#11, 0#8, by decide⟩, fun b t u h => by cases h⟩

theorem witness_EventDoneCompares :
    (0#16 : BitVec 16).toNat = OARegs.start.fwc ∧ (0xFFFF#16 : BitVec 16).toNat ≠ OARegs.start.fwc := by decide

/-- The registers of the walk at index 2 of an envelope of one empty FEB packet, and with a board id at 8 and at 9. -/
def atTrailer (board : BoardId) : OARegs := { OARegs.start with i := 2, ghi := some 1, febBoard := board }

theorem witness_FebTrailerFillsSlot :
    OARegs.start.ghi = none ∧ (atTrailer 9#8).ghi = some 1 ∧ 9 ≤ (atTrailer 9#8).febBoard.toNat ∧
      (atTrailer 8#8).febBoard.toNat < 9 ∧ (atTrailer 8#8).event.slot (atTrailer 8#8).febBoard.toNat = none ∧
      (OCBEvent.start.fill 8 packetA).slot 8 ≠ none ∧
      (∃ p, febAssemble (slice ([0x80000000#32, 0x00800000#32, 0xD0800000#32].map decode) 1 2) = .ok p) ∧
      ∃ e, febAssemble (slice ([0x80000000#32, 0x00800000#32, 0x50000005#32, 0xD0800000#32].map decode) 1 3) = .error e :=
  ⟨by decide, by decide, by decide, by decide, by decide, by decide, ⟨_, rfl⟩, ⟨_, rfl⟩⟩

theorem witness_EnvelopeIsCheckedFirst :
    ((1#3 : BitVec 3) ≠ 2#3 ∨ (0#2 : BitVec 2) ≠ 0#2) ∧ ((0#3 : BitVec 3) ≠ 0#3 ∨ (1#2 : BitVec 2) ≠ 2#2) ∧
      (∃ ev warnings, ocbAssemble (.ocbPacketHeader 1#3 2#2 7#23 :: ([] ++ [.ocbPacketTrailer 1#3 2#2 0#16])) =
        .ok (ev, warnings)) ∧
      ∀ hType hTag number, ([] : List Instr).head? ≠ some (.ocbPacketHeader hType hTag number) :=
  ⟨by decide, by decide, ⟨_, _, rfl⟩, fun _ _ _ => by simp⟩

theorem witness_FirstTwoIntervalsAreNotCounted :
    (∀ w ∈ [Instr.gtsHeader 0x10#28, .gtsTrailer2 0#1 0#1 0#1 0#20, .gtsHeader 0x11#28], isGtsLevel w = true) ∧
      OARegs.start.gtsc +
        [Instr.gtsHeader 0x10#28, .gtsTrailer2 0#1 0#1 0#1 0#20, .gtsHeader 0x11#28].countP isGtsHeader ≤ 2 := by decide

theorem witness_EnvelopeRunsTheAssembler :
    State.reset.fault = none ∧ State.reset.insideOcb = false ∧ State.reset.params.maxOcbWords = none ∧
      decode 0x80000000#32 = .ocbPacketHeader 0#3 0#2 0#23 ∧ decode 0x90000000#32 = .ocbPacketTrailer 0#3 0#2 0#16 ∧
      (∀ w ∈ [0x00300000#32, 0xD0300000#32], (decode w).interior = true) ∧
      (∃ ev warnings, ocbAssemble (decode 0x80000000#32 ::
        ([0x00300000#32, 0xD0300000#32].map decode ++ [decode 0x90000000#32])) = .ok (ev, warnings)) ∧
      ∃ e, ocbAssemble (decode 0x80000000#32 :: ([0xD0300000#32].map decode ++ [decode 0x90000000#32])) = .error e :=
  ⟨by decide, by decide, by decide, by decide, by decide, fun w hw => by
     simp only [List.mem_cons, List.not_mem_nil, or_false] at hw
     rcases hw with rfl | rfl <;> decide, exists_pair_of_toOption (by decide),
   .febTrailerWithoutHeader 1, by decide⟩

theorem witness_SamePacketTwiceGivesEqualEvents :
    ({ State.reset with input := [.word 0x80000000#32, .word 0x90000000#32, .word 0x80000000#32, .word 0x90000000#32] } :
        State).input = .word 0x80000000#32 :: (([] : List Word).map .word ++ .word 0x90000000#32 ::
          .word 0x80000000#32 :: (([] : List Word).map .word ++ .word 0x90000000#32 :: [])) ∧
      ∃ ev warnings, ocbAssemble (decode 0x80000000#32 :: (([] : List Word).map decode ++ [decode 0x90000000#32])) =
        .ok (ev, warnings) :=
  ⟨by decide, exists_pair_of_toOption (by decide)⟩

theorem witness_ConsumerViewsOfTheEvent :
    ({ packetA with gtsTimeMap := [(0x10#28, 5#20), (0x11#28, 6#20), (0x10#28, 7#20), (0x11#28, 8#20)] } :
        FEBPacket).gtsTimeMap = [(0x10#28, 5#20), (0x11#28, 6#20)] ++ (0x10#28, 7#20) :: [(0x11#28, 8#20)] ∧
      (∀ pair ∈ [((0x11#28 : GtsTag), (8#20 : BitVec 20))], pair.1 ≠ 0x10#28) ∧ 8 < 9 ∧ OCBEvent.start.slot 8 = none :=
  ⟨by decide, by simp, by decide, by decide⟩

end Sys2Proof.Tests
end

section
/-! PROOFS. Fields in their places, and the round trips of the decoder and the encoder. -/

namespace Sys2Proof

/-! ### Fields in their places -/

/-- The bits of a value in its place (R113). -/
theorem getLsbD_place {n : Nat} (value : BitVec n) (lo k : Nat) :
    (place value lo).getLsbD k = (decide (k < 32) && !decide (k < lo) && value.getLsbD (k - lo)) := by
  by_cases hk : k < 32
  · have hin : k - lo < 32 := by omega
    simp only [place, BitVec.getLsbD_shiftLeft, BitVec.getLsbD_setWidth, hin, decide_true, Bool.true_and]
  · simp [place, hk]

@[simp] theorem field_zero (start length : Nat) : field 0#32 start length = 0#length := by
  simp [field]

theorem field_or (a b : Word) (start length : Nat) :
    field (a ||| b) start length = field a start length ||| field b start length := by
  simp [field, BitVec.extractLsb'_or]

/-- A value put in its place is read back whole (R92, R113). -/
theorem field_place_same {n : Nat} (value : BitVec n) (lo : Nat) (h : lo + n ≤ 32) :
    field (place value lo) lo n = value := by
  refine field_eq _ _ _ _ fun k hk => ?_
  rw [getLsbD_place]
  simp [show lo + k < 32 by omega]

/-- A field does not see what stands beside it. -/
theorem field_place_disjoint {n : Nat} (value : BitVec n) (lo start length : Nat)
    (h : lo + n ≤ start ∨ start + length ≤ lo) : field (place value lo) start length = 0#length := by
  refine field_eq _ _ _ _ fun k hk => ?_
  rw [getLsbD_place, BitVec.getLsbD_zero]
  rcases h with h | h
  · simp [BitVec.getLsbD_of_ge value _ (show n ≤ start + k - lo by omega)]
  · simp [show start + k < lo by omega]

/-- A field of a word put back in its place is the word's bits there, and no others. -/
theorem getLsbD_place_field (raw : Word) (lo n k : Nat) :
    (place (field raw lo n) lo).getLsbD k = (decide (lo ≤ k ∧ k < lo + n) && raw.getLsbD k) := by
  rw [getLsbD_place]
  by_cases hlo : k < lo
  · simp [hlo, show ¬ lo ≤ k by omega]
  · have hle : lo ≤ k := by omega
    by_cases hk : k < 32
    · simp [field, hk, hle, Nat.sub_lt_iff_lt_add' hle]
    · simp [hk, BitVec.getLsbD_of_ge raw k (Nat.le_of_not_lt hk)]

/-- The `n` bits of a word from bit `lo` on. -/
def bitsAt (lo n : Nat) : Word := place (BitVec.allOnes n) lo

/-- Clearing the bits of a place clears the value that stands there. -/
theorem place_and_not_bitsAt {n : Nat} (value : BitVec n) (lo : Nat) : place value lo &&& ~~~bitsAt lo n = 0#32 := by
  apply BitVec.eq_of_getLsbD_eq
  intro k hk
  simp only [bitsAt, BitVec.getLsbD_and, BitVec.getLsbD_not, getLsbD_place, BitVec.getLsbD_allOnes]
  by_cases h : k - lo < n
  · simp [h]
    omega
  · simp [BitVec.getLsbD_of_ge value _ (Nat.le_of_not_lt h)]

/-- Clearing the bits of a place leaves a value that stands beside it. -/
theorem place_and_not_bitsAt_disjoint {n : Nat} (value : BitVec n) (lo start length : Nat)
    (h : lo + n ≤ start ∨ start + length ≤ lo) : place value lo &&& ~~~bitsAt start length = place value lo := by
  apply BitVec.eq_of_getLsbD_eq
  intro k hk
  simp only [bitsAt, BitVec.getLsbD_and, BitVec.getLsbD_not, getLsbD_place, BitVec.getLsbD_allOnes]
  by_cases hbeside : k < start ∨ ¬ k - start < length
  · rcases hbeside with hbelow | habove
    · simp [hbelow, hk]
    · simp [habove, hk]
  · have hout : k < lo ∨ n ≤ k - lo := by omega
    rcases hout with hlow | hhigh
    · simp [hlow]
    · simp [BitVec.getLsbD_of_ge value _ hhigh]

/-- Where the unused bits of a layout stand: the lowest one and how many (R109). -/
def unusedSpan : Instr → Nat × Nat
  | .gateHeaderType1 _ _ _ => (11, 8)
  | .hitTime _ _ _ _ _ _ => (13, 1)
  | .gtsTrailer2 _ _ _ _ _ => (20, 5)
  | .gateTrailer _ _ _ _ => (19, 1)
  | .ocbPacketTrailer _ _ _ _ => (16, 7)
  | .reserved0xA _ => (0, 28)
  | .holdTime _ _ _ _ => (11, 8)
  | _ => (0, 0)

theorem unusedBits_eq_bitsAt (i : Instr) : unusedBits i = bitsAt (unusedSpan i).1 (unusedSpan i).2 := by
  cases i <;> simp only [unusedBits, unusedSpan] <;> decide

/-! ### Round trips -/

/-- Every instruction is what its raw word decodes to: each field reads its own place (R31, R130). -/
theorem decode_raw (i : Instr) : decode i.raw = i := by
  unfold decode
  rw [idOf_raw]
  cases i <;>
    simp (disch := omega) [Instr.wordId, Instr.raw, encode, encodePayload, unusedPayload, decodeGateHeader,
      decodeGtsHeader, decodeHitTime, decodeHitAmplitude, decodeGtsTrailer1, decodeGtsTrailer2, decodeGateTrailer,
      decodeGateTime, decodeOcbPacketHeader, decodeOcbPacketTrailer, decodeHoldTime, decodeEventDone,
      decodeFebDataPacketTrailer, decodeHousekeeping, decodeSpecial, field_or, field_place_same, field_place_disjoint]

/-- Every word is the raw word of what it decodes to: the fields of each layout and its unused bits, back in their
places, cover the payload, and no place gets a bit that the word does not have there (R31, R109, R130). -/
theorem raw_decode (raw : Word) : (decode raw).raw = raw := by
  apply BitVec.eq_of_getLsbD_eq
  intro k hk
  rw [Instr.raw, encode, wordId_decode, idOf]
  rcases decode_cases raw with ⟨_, h19, h⟩ | ⟨_, h19, h⟩ | ⟨_, h⟩ | ⟨_, h⟩ | ⟨_, h⟩ | ⟨_, h⟩ | ⟨_, h⟩ | ⟨_, h⟩ |
    ⟨_, h⟩ | ⟨_, h⟩ | ⟨_, h⟩ | ⟨_, h⟩ | ⟨_, h⟩ | ⟨_, h⟩ | ⟨_, h⟩ | ⟨_, h⟩ | ⟨_, h⟩ <;> rw [h]
  case inl =>
    have hne : raw.getLsbD k = true → k ≠ 19 := by
      rintro hb rfl
      exact Bool.false_ne_true (h19.symm.trans hb)
    simp only [encodePayload, unusedPayload, BitVec.getLsbD_or, getLsbD_place_field]
    cases hb : raw.getLsbD k
    · simp
    · have := hne hb
      simp
      omega
  case inr.inl =>
    have hone : field raw 19 1 = 1#1 := field_eq _ _ _ _ fun k hk => by
      obtain rfl : k = 0 := by omega
      exact h19
    simp only [encodePayload, unusedPayload, ← hone, BitVec.getLsbD_or, getLsbD_place_field]
    cases raw.getLsbD k
    · simp
    · simp
      omega
  all_goals
    simp only [decodeGtsHeader, decodeHitTime, decodeHitAmplitude, decodeGtsTrailer1, decodeGtsTrailer2,
      decodeGateTrailer, decodeGateTime, decodeOcbPacketHeader, decodeOcbPacketTrailer, decodeHoldTime, decodeEventDone,
      decodeFebDataPacketTrailer, decodeHousekeeping, decodeSpecial, encodePayload, unusedPayload, BitVec.getLsbD_or,
      getLsbD_place_field]
    cases raw.getLsbD k
    · simp
    · simp
      omega

/-- Clearing the unused bits of a raw word leaves the canonical encoding: the unused payload goes, and every field
stands beside it (R109, R113). -/
theorem raw_and_not_unusedBits (i : Instr) : i.raw &&& ~~~unusedBits i = encode i := by
  rw [unusedBits_eq_bitsAt]
  cases i <;>
    simp (disch := omega) only [unusedSpan, Instr.raw, Instr.wordId, encode, encodePayload, unusedPayload,
      BitVec.and_or_distrib_right, place_and_not_bitsAt, place_and_not_bitsAt_disjoint, BitVec.or_zero]

/-- Settles O2: `raw` and `decode` undo each other, and the canonical encoding is the raw word with its unused bits
cleared. -/
theorem decodeEncodeRoundTrip : Obligations.DecodeEncodeRoundTrip := by
  refine ⟨raw_decode, decode_raw, fun i hwf => ?_, fun raw _ => ?_⟩
  · have hdecode : decode (encode i) = i.clearUnused := by rw [← raw_clearUnused, decode_raw]
    simp [wordDecode, hdecode, hwf]
  · rw [← raw_and_not_unusedBits, raw_decode]

end Sys2Proof
end

section
/-! PROOFS. What a step of the machine can do, and what it does to the position. -/

namespace Sys2Proof.Machine

/-- What a step of the machine can do (R270, R276, R277, R280): hold the state, take an item and nothing else, find the
stream truncated, or execute the word's instruction in a state that is not faulted. -/
theorem step_cases {s t : State} (h : step s = .next t) :
    t = s ∨ t = s.consume ∨ t = s.consume.raise (.truncatedStream s.buf.length) ∨
    (s.fault = none ∧ ∃ raw rest, s.input = .word raw :: rest ∧ exec (decode raw) s = .next t) := by
  cases hin : s.input with
  | nil =>
    cases (step_of_nil hin).symm.trans h
    exact .inl rfl
  | cons item rest =>
    cases item with
    | word raw =>
      rw [step_of_word hin] at h
      cases hf : s.fault with
      | some record =>
        cases (exec_faulted (decode raw) s (by simp [hf])).symm.trans h
        exact .inr (.inl rfl)
      | none => exact .inr (.inr (.inr ⟨rfl, raw, rest, rfl, h⟩))
    | endOfStream =>
      rw [step_of_end hin] at h
      rcases endStep_cases s with ⟨_, he⟩ | ⟨_, _, he⟩ <;> cases he.symm.trans h
      · exact .inr (.inl rfl)
      · exact .inr (.inr (.inl rfl))

/-- What the execution of an instruction does to the position: one more, or a fatal error and no change (R277, R279). -/
theorem exec_pos {i : Instr} {s t : State} (hf : s.fault = none) (h : exec i s = .next t) :
    (t.fault = none ∧ t.pos = s.pos + 1) ∨ (t.fault ≠ none ∧ t.pos = s.pos) := by
  rcases exec_cases i s hf with ⟨_, _, _, he⟩ | ⟨_, _, _, he⟩ | ⟨_, _, _, ev, ws, _, he⟩ | ⟨_, _, he⟩ | ⟨e, he, _⟩ <;>
    cases he.symm.trans h
  case inr.inr.inr.inr => exact .inr ⟨by simp, rfl⟩
  all_goals exact .inl ⟨hf, rfl⟩

/-- Settles O11: only the execution of a word moves the position. -/
theorem positionAdvancesByOne : Obligations.PositionAdvancesByOne := by
  constructor
  · intro s t raw rest hin hf h ht
    rw [step_of_word hin] at h
    rcases exec_pos hf h with ⟨_, hpos⟩ | ⟨hfault, _⟩
    · exact hpos
    · exact absurd ht hfault
  · intro s t h
    rcases step_cases h with rfl | rfl | rfl | ⟨hf, raw, rest, hin, he⟩
    · exact .inl rfl
    · exact .inl rfl
    · exact .inl rfl
    · rcases exec_pos hf he with ⟨hfault, hpos⟩ | ⟨_, hpos⟩
      · exact .inr ⟨hpos, hfault, raw, rest, hin⟩
      · exact .inl hpos

end Sys2Proof.Machine
end

section
/-! PROOFS. The merge maps of the GTS Assembler, and the form of the records that a run gives (R34, R35). -/

namespace Sys2Proof.Machine

/-- Settles O31: a word of either pass writes its map by `insert` or `erase`, or leaves it. -/
theorem mergeMapsKeepTheirForm : Obligations.MergeMapsKeepTheirForm := by
  refine ⟨⟨rfl, rfl⟩, fun board tag w r r' htime hamp hvisit => ?_⟩
  rcases hvisit with hvisit | hvisit
  · rcases gaTimeVisit_cases hvisit with ⟨_, rfl⟩ | ⟨e, _, _, _, rfl⟩ | ⟨e, m, _, _, _, rfl⟩
    · exact ⟨htime, hamp⟩
    · exact ⟨KeyMap.wf_insert _ _ _ htime, hamp⟩
    · exact ⟨KeyMap.wf_erase _ _ htime, hamp⟩
  · rcases gaAmpVisit_cases hvisit with ⟨_, rfl⟩ | ⟨e, _, _, _, rfl⟩ | ⟨e, _, _, _, rfl⟩
    · exact ⟨htime, hamp⟩
    · exact ⟨htime, KeyMap.wf_insert _ _ _ hamp⟩
    · exact ⟨htime, KeyMap.wf_insert _ _ _ hamp⟩

/-- An open time record, one with a rising edge only: its rise tag is set and the three fall fields are absent (R163). -/
def MergedHitTime.isOpen (m : MergedHitTime) : Prop :=
  m.riseGtsTag.isSome = true ∧ m.fallTime = none ∧ m.fallTagId = none ∧ m.fallGtsTag = none

theorem MergedHitTime.wf_of_isOpen {m : MergedHitTime} (h : m.isOpen) : m.wf = true := by
  obtain ⟨hrise, htime, hid, htag⟩ := h
  simp [MergedHitTime.wf, hrise, htime, hid, htag]

theorem risingRecord_isOpen {e : HitTimeEntry} (h : e.gtsTag.isSome = true) : (risingRecord e).isOpen :=
  ⟨h, rfl, rfl, rfl⟩

/-- A falling edge of a tagged run completes an open record (R164). -/
theorem MergedHitTime.wf_complete {m : MergedHitTime} {e : HitTimeEntry} (hm : m.isOpen) (he : e.gtsTag.isSome = true) :
    (m.complete e).wf = true := by
  simp [MergedHitTime.wf, MergedHitTime.complete, hm.1, he]

/-- Each sample of an amplitude record stands with its two tags (R35); a blank record has none. -/
def MergedHitAmplitude.tagged (m : MergedHitAmplitude) : Prop :=
  m.lgAmplitude.isSome = m.lgTagId.isSome ∧ m.lgTagId.isSome = m.lgGtsTag.isSome ∧
    m.hgAmplitude.isSome = m.hgTagId.isSome ∧ m.hgTagId.isSome = m.hgGtsTag.isSome

theorem MergedHitAmplitude.wf_iff (m : MergedHitAmplitude) :
    m.wf = true ↔ (m.lgAmplitude.isSome = true ∨ m.hgAmplitude.isSome = true) ∧ m.tagged := by
  simp only [MergedHitAmplitude.wf, MergedHitAmplitude.tagged, Bool.and_eq_true, Bool.or_eq_true, beq_iff_eq, and_assoc]

/-- What stands in the working registers of a tagged run: open records in the time map, well-formed ones in the time
output and in the amplitude map. -/
def GARegs.recordsWf (r : GARegs) : Prop :=
  (∀ x ∈ r.timeMap, x.2.isOpen) ∧ (∀ m ∈ r.timeOut, m.wf = true) ∧ ∀ x ∈ r.ampMap, x.2.wf = true

theorem start_recordsWf : GARegs.start.recordsWf := by
  refine ⟨?_, ?_, ?_⟩ <;> exact fun _ h => absurd h List.not_mem_nil

/-- A word of the first pass of a tagged run keeps the records well formed (R163, R164). -/
theorem gaTimeVisit_keeps_recordsWf {board : BoardId} {tag : Option GtsTag} {w : Instr} {r r' : GARegs}
    (htag : tag.isSome = true) (h : gaTimeVisit board tag w r = .ok r') (hr : r.recordsWf) : r'.recordsWf := by
  obtain ⟨hopen, hout, hamp⟩ := hr
  rcases gaTimeVisit_cases h with ⟨_, rfl⟩ | ⟨e, he, _, _, rfl⟩ | ⟨e, m, he, _, hfind, rfl⟩
  · exact ⟨hopen, hout, hamp⟩
  · obtain ⟨rfl, _, _⟩ := hitTimeEntry_operands he
    refine ⟨fun x hx => ?_, hout, hamp⟩
    rcases KeyMap.mem_insert _ _ _ hx with rfl | hx
    · exact risingRecord_isOpen htag
    · exact hopen x hx
  · obtain ⟨rfl, _, _⟩ := hitTimeEntry_operands he
    refine ⟨fun x hx => hopen x (KeyMap.mem_erase _ _ hx), fun x hx => ?_, hamp⟩
    rcases List.mem_append.mp hx with hx | hx
    · exact hout x hx
    · rw [List.mem_singleton.mp hx]
      exact MergedHitTime.wf_complete (hopen _ (KeyMap.mem_of_find _ _ hfind)) htag

/-- The record that a sample is written into has its samples with their tags (R166). -/
theorem ampRecord_tagged {r : GARegs} (h : ∀ x ∈ r.ampMap, x.2.wf = true) (c : ChannelId) : (ampRecord c r).tagged := by
  unfold ampRecord
  cases hfind : KeyMap.find c.toNat r.ampMap with
  | none => exact ⟨rfl, rfl, rfl, rfl⟩
  | some m => exact ((MergedHitAmplitude.wf_iff m).mp (h _ (KeyMap.mem_of_find _ _ hfind))).2

/-- A word of the second pass of a tagged run keeps the records well formed (R166). -/
theorem gaAmpVisit_keeps_recordsWf {board : BoardId} {tag : Option GtsTag} {w : Instr} {r r' : GARegs}
    (htag : tag.isSome = true) (h : gaAmpVisit board tag w r = .ok r') (hr : r.recordsWf) : r'.recordsWf := by
  obtain ⟨hopen, hout, hamp⟩ := hr
  have hinsert : ∀ (k : Nat) (m : MergedHitAmplitude), m.wf = true → ∀ x ∈ KeyMap.insert k m r.ampMap, x.2.wf = true := by
    intro k m hm x hx
    rcases KeyMap.mem_insert _ _ _ hx with rfl | hx
    · exact hm
    · exact hamp x hx
  rcases gaAmpVisit_cases h with ⟨_, rfl⟩ | ⟨e, he, _, _, rfl⟩ | ⟨e, he, _, _, rfl⟩
  · exact ⟨hopen, hout, hamp⟩
  · obtain ⟨rfl, _, _⟩ := hitAmplitudeEntry_operands he
    obtain ⟨hlg, hlg', _, _⟩ := ampRecord_tagged hamp e.channelId
    exact ⟨hopen, hout, hinsert _ _ ((MergedHitAmplitude.wf_iff _).mpr ⟨.inr rfl, hlg, hlg', rfl, htag.symm⟩)⟩
  · obtain ⟨rfl, _, _⟩ := hitAmplitudeEntry_operands he
    obtain ⟨_, _, hhg, hhg'⟩ := ampRecord_tagged hamp e.channelId
    exact ⟨hopen, hout, hinsert _ _ ((MergedHitAmplitude.wf_iff _).mpr ⟨.inl rfl, rfl, htag.symm, hhg, hhg'⟩)⟩

/-- The records that a tagged run of the GTS Assembler gives are well formed (R34, R35, R168). -/
theorem gtsAssemble_wf {board : BoardId} {tag : Option GtsTag} {block : List Instr} {timeOut : List MergedHitTime}
    {ampOut : List MergedHitAmplitude} (htag : tag.isSome = true) (h : gtsAssemble board tag block = .ok (timeOut, ampOut)) :
    (∀ m ∈ timeOut, m.wf = true) ∧ ∀ m ∈ ampOut, m.wf = true := by
  obtain ⟨r, r', htime, hamp, _, rfl, rfl⟩ := gtsAssemble_ok h
  have hr : r.recordsWf := walk_keeps _ (fun _ _ _ _ hv => gaTimeVisit_keeps_recordsWf htag hv) htime start_recordsWf
  have hr' : r'.recordsWf := walk_keeps _ (fun _ _ _ _ hv => gaAmpVisit_keeps_recordsWf htag hv) hamp hr
  obtain ⟨hopen, hout, _⟩ := hr
  obtain ⟨_, _, hampMap⟩ := hr'
  constructor
  · intro m hm
    rcases List.mem_append.mp hm with hm | hm
    · exact hout m hm
    · obtain ⟨x, hx, rfl⟩ := List.mem_map.mp hm
      exact MergedHitTime.wf_of_isOpen (hopen x hx)
  · intro m hm
    obtain ⟨x, hx, rfl⟩ := List.mem_map.mp hm
    exact hampMap x hx

end Sys2Proof.Machine
end

section
/-! PROOFS. The FEB Assembler's windows, and the form of the packet of a slice (R36, R212). -/

namespace Sys2Proof.Machine

theorem FEBPacket.wf_iff (p : FEBPacket) :
    p.wf = true ↔ (∀ m ∈ p.hitTimes, m.wf = true) ∧ ∀ m ∈ p.hitAmplitudes, m.wf = true := by
  simp only [FEBPacket.wf, Bool.and_eq_true, List.all_eq_true]

/-- A flush of a window that has a tag if it holds words keeps the packet's records well formed (R204). -/
theorem faFlush_keeps_packetWf {tag : Option GtsTag} {ws : List Instr} {r r' : FARegs}
    (hwindow : ws ≠ [] → tag.isSome = true) (h : faFlush tag ws r = .ok r') (hr : r.packet.wf = true) :
    r'.packet.wf = true := by
  rcases faFlush_cases h with ⟨_, rfl⟩ | ⟨hws, timeOut, ampOut, hgts, rfl⟩
  · exact hr
  · obtain ⟨htime, hamp⟩ := (FEBPacket.wf_iff _).mp hr
    obtain ⟨htimeOut, hampOut⟩ := gtsAssemble_wf (hwindow hws) hgts
    refine (FEBPacket.wf_iff _).mpr ⟨fun m hm => ?_, fun m hm => ?_⟩
    · exact (List.mem_append.mp hm).elim (htime m) (htimeOut m)
    · exact (List.mem_append.mp hm).elim (hamp m) (hampOut m)

theorem faRecordTime_packetWf (time : BitVec 20) (r : FARegs) : (faRecordTime time r).packet.wf = r.packet.wf := by
  obtain ⟨pairs, hpairs⟩ := faRecordTime_keeps time r
  rw [hpairs]
  rfl

/-- Every word of the walk keeps the window invariant: a word enters a window only when the window's tag is set, and the
shift moves words and tag together (R212). -/
theorem faVisit_keeps_windowsWf {w : Instr} {r r' : FARegs} (h : faVisit w r = .ok r') (hr : r.windowsWf) :
    r'.windowsWf := by
  obtain ⟨hcurrent, hprevious⟩ := hr
  rcases faVisit_cases h with ⟨_, _, rfl⟩ | ⟨g, _, rfl⟩ | ⟨g, _, htag, rfl⟩ | ⟨t, _, hmatch, rfl⟩ | ⟨t, _, hmatch, rfl⟩ |
    ⟨d, o, f, time, u, r1, _, hwords, hflush, rfl⟩
  · exact ⟨hcurrent, hprevious⟩
  · exact ⟨fun _ => rfl, hprevious⟩
  · exact ⟨fun _ => by simp [htag], hprevious⟩
  · exact ⟨fun _ => tagMatches_isSome hmatch, hprevious⟩
  · exact ⟨hcurrent, fun _ => tagMatches_isSome hmatch⟩
  · obtain ⟨_, _, _, _, _, _, htag, _⟩ := faFlush_keeps hflush
    refine ⟨fun h => absurd rfl h, fun _ => ?_⟩
    rw [faShift_previousTag, htag, faRecordTime_currentTag]
    exact hcurrent hwords

/-- Every word of the walk keeps the packet's records well formed, given the window invariant: only the flush of
GTSTrailer2 adds any (R203). -/
theorem faVisit_keeps_packetWf {w : Instr} {r r' : FARegs} (h : faVisit w r = .ok r') (hwindows : r.windowsWf)
    (hr : r.packet.wf = true) : r'.packet.wf = true := by
  rcases faVisit_cases h with ⟨_, _, rfl⟩ | ⟨g, _, rfl⟩ | ⟨g, _, _, rfl⟩ | ⟨t, _, _, rfl⟩ | ⟨t, _, _, rfl⟩ |
    ⟨d, o, f, time, u, r1, _, _, hflush, rfl⟩
  case inr.inr.inr.inr.inr =>
    have hr1 : r1.packet.wf = true := faFlush_keeps_packetWf hwindows.2 hflush ((faRecordTime_packetWf _ _).trans hr)
    exact hr1
  all_goals exact hr

/-- The end of a slice keeps the packet's records well formed and its board (R211). -/
theorem faEnd_keeps_packetWf {r r' : FARegs} (h : faEnd r = .ok r') (hwindows : r.windowsWf) (hr : r.packet.wf = true) :
    r'.packet.wf = true ∧ r'.boardId = r.boardId := by
  obtain ⟨r1, h1, h2⟩ := faEnd_ok h
  obtain ⟨hcurrent, hprevious⟩ := hwindows
  have hr1 := faFlush_keeps_packetWf hprevious h1 hr
  exact ⟨faFlush_keeps_packetWf hcurrent h2 hr1, (faFlush_keeps h2).1.trans (faFlush_keeps h1).1⟩

/-- The packet of a slice is well formed and holds the board of the slice's first word (R36, R191, R214). -/
theorem febAssemble_wf {S : List Instr} {p : FEBPacket} (h : febAssemble S = .ok p) :
    p.wf = true ∧ S.head?.bind gateHeaderBoard = some p.boardId := by
  obtain ⟨board, status, r, r', hboard, _, hwalk, hend, rfl⟩ := febAssemble_ok h
  have hbegin : (faBegin board status S).windowsWf := ⟨fun h => absurd rfl h, fun h => absurd rfl h⟩
  obtain ⟨hwindows, hpacket⟩ : r.windowsWf ∧ r.packet.wf = true :=
    walk_keeps (fun x => x.windowsWf ∧ x.packet.wf = true)
      (fun _ _ _ _ hv hx => ⟨faVisit_keeps_windowsWf hv hx.1, faVisit_keeps_packetWf hv hx.1 hx.2⟩) hwalk ⟨hbegin, rfl⟩
  have hrboard : r.boardId = board :=
    walk_keeps (fun x => x.boardId = board) (fun _ _ _ _ hv hx => (faVisit_captured hv).1.trans hx) hwalk rfl
  obtain ⟨hwf, hrboard'⟩ := faEnd_keeps_packetWf hend hwindows hpacket
  exact ⟨hwf, by rw [hboard, ← hrboard, ← hrboard']; rfl⟩

end Sys2Proof.Machine
end

section
/-! PROOFS. The form of the event and of the warnings of an envelope (R37, R313 to R317). -/

namespace Sys2Proof.Machine

theorem OCBEvent.wf_iff (ev : OCBEvent) :
    ev.wf = true ↔ ∀ b p, b < Config.numFebsPerOcb → ev.slot b = some p → p.boardId.toNat = b ∧ p.wf = true := by
  simp only [OCBEvent.wf, List.all_eq_true, List.mem_range, Option.all_eq_true, Bool.and_eq_true, beq_iff_eq]
  exact ⟨fun h b p hb hs => h b hb p hs, fun h b hb p hs => h b p hb hs⟩

/-- A slot filled with a well-formed packet of its own board keeps the event well formed (R37). -/
theorem fill_keeps_eventWf {ev : OCBEvent} {p : FEBPacket} (hev : ev.wf = true) (hp : p.wf = true) :
    (ev.fill p.boardId.toNat p).wf = true := by
  rw [OCBEvent.wf_iff] at hev ⊢
  intro b q hb hslot
  by_cases hne : b = p.boardId.toNat
  · subst hne
    rw [slot_fill_self ev _ p hb] at hslot
    cases hslot
    exact ⟨rfl, hp⟩
  · rw [slot_fill_ne ev _ b p hne] at hslot
    exact hev b q hb hslot

/-- What holds along the walk over a buffer: a recorded gate header stands before the walk index and holds the recorded
board, and the event and the warnings so far are well formed. -/
def OARegs.runWf (B : List Instr) (r : OARegs) : Prop :=
  (∀ g, r.ghi = some g → g < r.i ∧ (memRead B g).bind gateHeaderBoard = some r.febBoard) ∧
    r.event.wf = true ∧ ∀ x ∈ r.warnings, x.wf = true

/-- The packet cut from a recorded gate header to the walk index is well formed and of the recorded board (R250). -/
theorem febAssemble_slice_wf {B : List Instr} {r : OARegs} {g : Nat} {p : FEBPacket} (hr : r.runWf B)
    (hg : r.ghi = some g) (h : febAssemble (slice B g r.i) = .ok p) : p.wf = true ∧ r.febBoard = p.boardId := by
  obtain ⟨hlt, hboard⟩ := hr.1 g hg
  obtain ⟨hwf, hhead⟩ := febAssemble_wf h
  rw [slice_head hlt, hboard] at hhead
  exact ⟨hwf, Option.some.inj hhead⟩

/-- Every word of the interior keeps what holds along the walk (R240 to R257). -/
theorem oaVisit_keeps_runWf {B : List Instr} {w : Instr} {r r' : OARegs} (hw : memRead B r.i = some w)
    (hinterior : w.interior = true) (h : oaVisit B w r = .ok r') (hr : r.runWf B) : r'.runWf B := by
  have ⟨hghi, hevent, hwarn⟩ := hr
  obtain ⟨hi, hcases⟩ := oaVisit_cases h
  have hkept : r'.ghi = r.ghi → r'.febBoard = r.febBoard →
      ∀ g, r'.ghi = some g → g < r'.i ∧ (memRead B g).bind gateHeaderBoard = some r'.febBoard := by
    intro hg hb g hg'
    obtain ⟨hlt, hboard⟩ := hghi g (hg ▸ hg')
    exact ⟨by omega, hb ▸ hboard⟩
  rcases hcases with ⟨b, t, n, rfl, hg, hb, hev, hws⟩ | ⟨hev, hg, hb, hws⟩ | ⟨g, p, _, hghi', _, _, hp, hev, hg, hb, hws⟩
  · refine ⟨fun g hg' => ?_, hev ▸ hevent, hws ▸ hwarn⟩
    obtain rfl : r.i = g := Option.some.inj (hg.symm.trans hg')
    exact ⟨by omega, by rw [hw, hb]; rfl⟩
  · refine ⟨hkept hg hb, hev ▸ hevent, ?_⟩
    rcases hws with hws | ⟨x, hws, hx⟩
    · exact hws ▸ hwarn
    · intro y hy
      rw [hws, List.mem_append, List.mem_singleton] at hy
      rcases hy with hy | rfl
      · exact hwarn y hy
      · exact hx hinterior
  · obtain ⟨hpwf, hpboard⟩ := febAssemble_slice_wf hr hghi' hp
    refine ⟨hkept hg hb, ?_, hws ▸ hwarn⟩
    rw [hev, hpboard]
    exact fill_keeps_eventWf hevent hpwf

/-- The walk begins with no gate header recorded, nine empty slots and no warning (R25, R26). -/
theorem oaBegin_runWf (B : List Instr) (gateType : BitVec 3) (gateTag : BitVec 2) (eventNumber : BitVec 23)
    (errors : BitVec 16) : (oaBegin gateType gateTag eventNumber errors).runWf B :=
  ⟨fun _ hg => (nomatch hg), rfl, fun _ hx => absurd hx List.not_mem_nil⟩

/-- The interior of an envelope stands in it from index 1 on (R235). -/
theorem memRead_interior (a z : Instr) {mid : List Instr} {k : Nat} (hk : k < mid.length) :
    memRead (a :: (mid ++ [z])) (1 + k) = mid[k]? := by
  simp [memRead, Nat.add_comm 1 k, List.getElem?_append_left hk]

/-- The event and the warnings of an envelope, a canonical buffer and its trailer, are well formed (R230). -/
theorem ocbAssemble_wf {buf : List Instr} {gateType : BitVec 3} {gateTag : BitVec 2} {errors : BitVec 16}
    {unused : BitVec 7} {ev : OCBEvent} {warnings : List Warning} (hbuf : Memory.wf true buf = true)
    (h : ocbAssemble (append buf (.ocbPacketTrailer gateType gateTag errors unused)) = .ok (ev, warnings)) :
    ev.wf = true ∧ ∀ x ∈ warnings, x.wf = true := by
  obtain ⟨hType, hTag, number, mid, rfl, hmid⟩ := memory_wf_inside hbuf
  rw [append, List.cons_append, ocbAssemble, ocbRun_envelope] at h
  split at h
  · cases h
  · rename_i r hrun
    cases h
    split at hrun
    · obtain ⟨hkeeps, _⟩ := oaWalk_keeps (OARegs.runWf _) mid _ (fun k hk => memRead_interior _ _ hk)
        (fun w hw _ _ hread hv => oaVisit_keeps_runWf hread (List.all_eq_true.mp hmid w hw) hv) (oaBegin_runWf _ _ _ _ _)
      obtain ⟨_, hevent, hwarnings⟩ := hkeeps r hrun
      exact ⟨hevent, hwarnings⟩
    · cases hrun

end Sys2Proof.Machine
end

section
/-! PROOFS. The emitted items, and the consumer's views of them. -/

namespace Sys2Proof.Machine

/-- An event is emitted well formed if it and its warnings are. -/
theorem outItem_event_wf {ev : OCBEvent} {warnings : List Warning} (hev : ev.wf = true)
    (hwarnings : ∀ x ∈ warnings, x.wf = true) : (OutItem.event ev warnings).wf = true := by
  simpa [OutItem.wf, hev] using hwarnings

theorem all_wf_emit {out : List OutItem} {x : OutItem} (hout : out.all OutItem.wf = true) (hx : x.wf = true) :
    (out ++ [x]).all OutItem.wf = true := by
  rw [List.all_append, hout, List.all_cons, hx]
  rfl

/-- What a word's execution emits is well formed: only the trailer of an envelope emits an event (R24, R274, R277). -/
theorem exec_keeps_outWf {i : Instr} {s t : State} (hbuf : Memory.wf s.insideOcb s.buf = true)
    (hout : s.out.all OutItem.wf = true) (hf : s.fault = none) (h : exec i s = .next t) : t.out.all OutItem.wf = true := by
  rcases exec_cases i s hf with ⟨_, _, _, he⟩ | ⟨_, _, _, he⟩ | ⟨hin, _, ⟨a, b, c, d, rfl⟩, ev, ws, hasm, he⟩ | ⟨_, _, he⟩ |
    ⟨e, he, _⟩ <;> cases he.symm.trans h
  case inr.inr.inl =>
    rw [hin] at hbuf
    obtain ⟨hev, hws⟩ := ocbAssemble_wf hbuf hasm
    exact all_wf_emit hout (outItem_event_wf hev hws)
  case inr.inr.inr.inr => exact all_wf_emit hout rfl
  all_goals exact hout

/-- Settles O26: a step that executes no word emits nothing or a Fault, and an executed word keeps the output. -/
theorem stepKeepsEventsWellFormed : Obligations.StepKeepsEventsWellFormed := by
  intro s t hbuf hout h
  rcases step_cases h with rfl | rfl | rfl | ⟨hf, _, _, _, hexec⟩
  · exact hout
  · exact hout
  · exact all_wf_emit hout rfl
  · exact exec_keeps_outWf hbuf hout hf hexec

/-- `lookup` reads the last pair of its tag (R36). -/
theorem lookup_eq_some_of_last {p : FEBPacket} {before after : List (GtsTag × BitVec 20)} {g : GtsTag}
    {time : BitVec 20} (hmap : p.gtsTimeMap = before ++ (g, time) :: after) (hlast : ∀ pair ∈ after, pair.1 ≠ g) :
    p.lookup g = some time := by
  have hnone : after.reverse.find? (fun pair => pair.1 == g) = none := by simpa using fun a b h => hlast (a, b) h
  simp [FEBPacket.lookup, hmap, List.find?_append, hnone]

/-- Filling an empty slot adds one fired FEB (R37). -/
theorem firedFebCount_fill {ev : OCBEvent} {b : Nat} (p : FEBPacket) (hb : b < Config.numFebsPerOcb)
    (hempty : ev.slot b = none) : (ev.fill b p).firedFebCount = ev.firedFebCount + 1 := by
  have hlen : b < ev.febs.toList.length := by simpa using hb
  have hslot : ev.febs.toList[b] = none := by simpa [OCBEvent.slot, hb] using hempty
  simp only [OCBEvent.firedFebCount, OCBEvent.fill, Vector.toList_setIfInBounds, List.countP_set hlen, hslot]
  simp

/-- Settles O59: the two views, one lemma each. -/
theorem consumerViewsOfTheEvent : Obligations.ConsumerViewsOfTheEvent :=
  ⟨fun _ _ _ _ _ hmap hlast => lookup_eq_some_of_last hmap hlast, fun _ _ p hb hempty => firedFebCount_fill p hb hempty⟩

end Sys2Proof.Machine
end

section
/-! PROOFS. The form of the state that every step keeps: buffer, capacity, registers at rest, fault record (R23, R24,
R66, R70, R277). -/

namespace Sys2Proof.Machine

theorem State.wf_iff (s : State) :
    s.wf = true ↔ Memory.wf s.insideOcb s.buf = true ∧ s.capacityWf = true ∧ s.registersWf = true ∧ s.faultWf = true := by
  simp only [State.wf, Bool.and_eq_true, and_assoc]

/-- Taking an item off the queue is outside the form of the state. -/
@[simp] theorem State.consume_wf (s : State) : s.consume.wf = s.wf := rfl

/-- An empty buffer is within every capacity (R70). -/
theorem capacityWf_of_nil {s : State} (h : s.buf = []) : s.capacityWf = true := by
  unfold State.capacityWf
  cases s.params.maxOcbWords <;> simp [h]

/-- A buffer of one word is within every capacity but 0 (R70). -/
theorem capacityWf_of_singleton {s : State} {w : Instr} (h : s.buf = [w]) (hcap : s.params.maxOcbWords ≠ some 0) :
    s.capacityWf = true := by
  unfold State.capacityWf
  cases hm : s.params.maxOcbWords with
  | none => rfl
  | some limit =>
    have hpos : limit ≠ 0 := fun h0 => hcap (h0 ▸ hm)
    simp only [h, List.length_singleton, decide_eq_true_eq]
    omega

/-- Without a fault record the fault's form is that every emitted item is an Event (R24). -/
theorem faultWf_of_running {s : State} (hf : s.fault = none) (hout : s.out.all OutItem.isEvent = true) :
    s.faultWf = true := by
  simpa only [State.faultWf, hf] using hout

theorem outEvents_of_running {s : State} (hf : s.fault = none) (h : s.faultWf = true) :
    s.out.all OutItem.isEvent = true := by
  simpa only [State.faultWf, hf] using h

/-- The first fatal error gives the state its form whatever stood in the buffer: the one Fault item ends the output and
is the record (R24, R277). -/
theorem raise_wf {s : State} (hout : s.out.all OutItem.isEvent = true) (e : FatalError) : (s.raise e).wf = true := by
  have hfault : (s.raise e).faultWf = true := by simpa [State.faultWf] using hout
  exact (State.wf_iff _).mpr ⟨rfl, capacityWf_of_nil rfl, rfl, hfault⟩

/-- A word's execution keeps the form of the state, in each of its five results (R272 to R277). -/
theorem exec_keeps_wf {i : Instr} {s t : State} (hf : s.fault = none) (hs : s.wf = true) (h : exec i s = .next t) :
    t.wf = true := by
  obtain ⟨hbuf, hcap, hregs, hfault⟩ := s.wf_iff.mp hs
  have hout : s.out.all OutItem.isEvent = true := outEvents_of_running hf hfault
  rcases exec_cases i s hf with ⟨hin, hi, hroom, he⟩ | ⟨_, hmax, ⟨a, b, c, rfl⟩, he⟩ | ⟨_, _, _, ev, ws, _, he⟩ |
    ⟨_, _, he⟩ | ⟨e, he, _⟩ <;> cases he.symm.trans h <;> rw [State.wf_iff]
  case inl =>
    rw [hin] at hbuf
    have hbuf' : Memory.wf s.insideOcb (append s.buf i) = true := hin ▸ memory_wf_append hbuf hi
    exact ⟨hbuf', capacity_append hroom i, hregs, faultWf_of_running hf hout⟩
  case inr.inl =>
    exact ⟨memory_wf_open a b c, capacityWf_of_singleton rfl hmax, hregs, faultWf_of_running hf hout⟩
  case inr.inr.inl =>
    have hevents : (s.out ++ [OutItem.event ev ws]).all OutItem.isEvent = true := by simpa [OutItem.isEvent] using hout
    exact ⟨memory_wf_clear, capacityWf_of_nil rfl, rfl, faultWf_of_running hf hevents⟩
  case inr.inr.inr.inl => exact ⟨hbuf, hcap, hregs, faultWf_of_running hf hout⟩
  case inr.inr.inr.inr => exact (State.wf_iff _).mp (raise_wf (s := s.consume) hout e)

/-- In the faulted state a step holds the state or takes an item and nothing else (R277, R280). -/
theorem step_of_faulted {s t : State} (hf : s.fault.isSome = true) (h : step s = .next t) : t = s ∨ t = s.consume := by
  cases hin : s.input with
  | nil =>
    cases (step_of_nil hin).symm.trans h
    exact .inl rfl
  | cons item rest =>
    right
    cases item with
    | word raw =>
      cases ((step_of_word hin).trans (exec_faulted _ s hf)).symm.trans h
      rfl
    | endOfStream =>
      have hend : endStep s = .next s.consume := by simp [endStep, hf]
      cases ((step_of_end hin).trans hend).symm.trans h
      rfl

/-- Settles O25: a faulted state changes in its queue only; in any other every item so far is an Event, so a fatal error
may add the one Fault, and the other results of a step keep each part of the form. -/
theorem stepKeepsStateForm : Obligations.StepKeepsStateForm := by
  intro s t hs h
  cases hf : s.fault with
  | some record =>
    rcases step_of_faulted (by simp [hf]) h with rfl | rfl
    · exact hs
    · exact s.consume_wf.trans hs
  | none =>
    obtain ⟨_, _, _, hfault⟩ := s.wf_iff.mp hs
    rcases step_cases h with rfl | rfl | rfl | ⟨_, _, _, _, hexec⟩
    · exact hs
    · exact s.consume_wf.trans hs
    · exact raise_wf (s := s.consume) (outEvents_of_running hf hfault) _
    · exact exec_keeps_wf hf hs hexec

end Sys2Proof.Machine
end

section
/-! PROOFS. The byte source's words (R61, R63). -/

namespace Sys2Proof.Machine

/-- A value placed where it fits in a word, above the bits of another word, adds to it. -/
theorem toNat_place_or {n lo : Nat} (value : BitVec n) {low : Word} (hfit : lo + n ≤ 32) (hlow : low.toNat < 2 ^ lo) :
    (place value lo ||| low).toNat = value.toNat * 2 ^ lo + low.toNat := by
  have hshift : value.toNat * 2 ^ lo < 2 ^ 32 := by
    calc value.toNat * 2 ^ lo < 2 ^ n * 2 ^ lo := Nat.mul_lt_mul_of_pos_right value.isLt (Nat.two_pow_pos lo)
      _ = 2 ^ (lo + n) := by rw [Nat.add_comm, Nat.pow_add]
      _ ≤ 2 ^ 32 := Nat.pow_le_pow_right (by decide) hfit
  have hvalue : value.toNat < 2 ^ 32 := value.isLt.trans_le (Nat.pow_le_pow_right (by decide) (by omega))
  have hplace : (place value lo).toNat = 2 ^ lo * value.toNat := by
    rw [place, BitVec.toNat_shiftLeft, BitVec.toNat_setWidth, Nat.mod_eq_of_lt hvalue, Nat.shiftLeft_eq,
      Nat.mod_eq_of_lt hshift, Nat.mul_comm]
  rw [BitVec.toNat_or, hplace, ← Nat.two_pow_add_eq_or_of_lt hlow, Nat.mul_comm]

/-- The big-endian word of four bytes is their sum by place value (R61). -/
theorem toNat_wordOfBytes_big (b0 b1 b2 b3 : BitVec 8) :
    (wordOfBytes .big b0 b1 b2 b3).toNat =
      b0.toNat * 2 ^ 24 + b1.toNat * 2 ^ 16 + b2.toNat * 2 ^ 8 + b3.toNat := by
  have h3 : (place b3 0).toNat = b3.toNat := by
    rw [place, BitVec.shiftLeft_zero, BitVec.toNat_setWidth_of_le (by decide)]
  have h2 := toNat_place_or (lo := 8) b2 (low := place b3 0) (by decide) (by omega)
  have h1 := toNat_place_or (lo := 16) b1 (low := place b2 8 ||| place b3 0) (by decide) (by omega)
  have h0 := toNat_place_or (lo := 24) b0 (low := place b1 16 ||| (place b2 8 ||| place b3 0)) (by decide) (by omega)
  rw [wordOfBytes, BitVec.or_assoc, BitVec.or_assoc, h0, h1, h2, h3, Nat.add_assoc, Nat.add_assoc]

/-- The little-endian word of four bytes is the big-endian word of the bytes in reverse (R61). -/
theorem wordOfBytes_little (b0 b1 b2 b3 : BitVec 8) : wordOfBytes .little b0 b1 b2 b3 = wordOfBytes .big b3 b2 b1 b0 := by
  rw [wordOfBytes, wordOfBytes, BitVec.or_comm _ (place b3 24), BitVec.or_comm _ (place b2 16),
    BitVec.or_comm (place b0 0), ← BitVec.or_assoc, ← BitVec.or_assoc]

/-- One word for each whole group of four bytes, by recursion over the groups (R63). -/
theorem length_wordsOfBytes (order : ByteOrder) :
    ∀ bytes : List (BitVec 8), (wordsOfBytes order bytes).length = bytes.length / 4
  | [] | [_] | [_, _] | [_, _, _] => by simp [wordsOfBytes]
  | _ :: _ :: _ :: _ :: rest => by
    simp only [wordsOfBytes, List.length_cons, length_wordsOfBytes order rest]
    omega

/-- Settles O60: the word by place value in either byte order, and the count of the words. -/
theorem bytesMakeWords : Obligations.BytesMakeWords := by
  refine ⟨fun b0 b1 b2 b3 => ⟨?_, toNat_wordOfBytes_big b0 b1 b2 b3⟩, length_wordsOfBytes⟩
  rw [wordOfBytes_little, toNat_wordOfBytes_big]
  omega

end Sys2Proof.Machine
end

section
/-! PROOFS. The rows of the opcode table, and the payload bits that decide no field (R91, R109, R130). -/

namespace Sys2Proof

/-! ### The rows of the opcode table -/

/-- The canonical encoding of every instruction matches the instruction's row. -/
theorem encode_and_opcodeMask (i : Instr) : encode i &&& opcodeMask i = opcodeMatch i := by
  cases i with
  | gateHeaderType0 boardId gateType gateNumber =>
    exact Laws.EncodeMatchesRow.gateHeaderType0 boardId gateType gateNumber
  | gateHeaderType1 boardId gateTimeFromGts unused =>
    exact Laws.EncodeMatchesRow.gateHeaderType1 boardId gateTimeFromGts unused
  | _ => exact Laws.encodeMatchesRow_of_id _ rfl

/-- No row tests a bit that its layout leaves out. -/
theorem unusedBits_and_opcodeMask (i : Instr) : unusedBits i &&& opcodeMask i = 0#32 := by
  cases i <;> simp only [unusedBits, opcodeMask] <;> decide

theorem not_unusedBits_and_opcodeMask (i : Instr) : ~~~unusedBits i &&& opcodeMask i = opcodeMask i := by
  cases i <;> simp only [unusedBits, opcodeMask] <;> decide

/-- Re-encoding a decoded word clears its unused bits, the whole payload of the reserved id among them (R113). -/
theorem encode_decode (raw : Word) : encode (decode raw) = raw &&& ~~~unusedBits (decode raw) := by
  rw [← raw_and_not_unusedBits, raw_decode]

/-- A word matches the row of the kind it decodes to. -/
theorem and_opcodeMask_decode (raw : Word) : raw &&& opcodeMask (decode raw) = opcodeMatch (decode raw) := by
  rw [← encode_and_opcodeMask, encode_decode, BitVec.and_assoc, not_unusedBits_and_opcodeMask]

/-- The `match` of a row has the id of its kind (R91). -/
theorem idOf_opcodeMatch (i : Instr) : idOf (opcodeMatch i) = i.wordId := by
  cases i <;> simp only [opcodeMatch, Instr.wordId] <;> decide

/-- Every row tests all four id bits. -/
theorem idOf_and_opcodeMask (raw : Word) (i : Instr) : idOf (raw &&& opcodeMask i) = idOf raw := by
  have hmask : idOf (opcodeMask i) = BitVec.allOnes 4 := by
    cases i <;> simp only [opcodeMask] <;> decide
  calc idOf (raw &&& opcodeMask i) = idOf raw &&& idOf (opcodeMask i) := by simp [idOf, field, BitVec.extractLsb'_and]
    _ = idOf raw := by rw [hmask, BitVec.and_allOnes]

/-- The id alone decides which bits a row tests: `header_type` too for id 0, the id bits only for every other. -/
theorem opcodeMask_eq (i : Instr) : opcodeMask i = if i.wordId = 0x0#4 then 0xF0080000#32 else 0xF0000000#32 := by
  cases i <;> rfl

/-- Settles O5: matching a row and decoding to it both fix the word's id, hence the mask of the row, and under its own
row's mask a word reads that row's `match`. -/
theorem wordMatchesItsOpcodeRow : Obligations.WordMatchesItsOpcodeRow := by
  intro raw i
  have hmask : idOf raw = i.wordId → opcodeMask (decode raw) = opcodeMask i := fun hid => by
    rw [opcodeMask_eq, opcodeMask_eq, wordId_decode, hid]
  constructor
  · intro hrow
    have hid : idOf raw = i.wordId := by rw [← idOf_and_opcodeMask raw i, hrow, idOf_opcodeMatch]
    rw [← and_opcodeMask_decode, hmask hid, hrow]
  · intro hrow
    have hid : idOf raw = i.wordId := by rw [← wordId_decode, ← idOf_opcodeMatch, hrow, idOf_opcodeMatch]
    rw [← hmask hid, and_opcodeMask_decode, hrow]

/-! ### Unused bits and decoding -/

/-- The row decides which payload bits are unused: those of the word that is its `match`. -/
theorem unusedBits_decode_opcodeMatch (i : Instr) : unusedBits (decode (opcodeMatch i)) = unusedBits i := by
  cases i <;> simp only [opcodeMatch, unusedBits] <;> decide

/-- A mask beside the changed bits does not see the change. -/
theorem xor_and_of_disjoint (raw change : Word) {unused mask : Word} (h : unused &&& mask = 0#32) :
    (raw ^^^ (change &&& unused)) &&& mask = raw &&& mask := by
  have hchange : change &&& unused &&& mask = 0#32 := by rw [BitVec.and_assoc, h, BitVec.and_zero]
  calc (raw ^^^ (change &&& unused)) &&& mask = (raw &&& mask) ^^^ (change &&& unused &&& mask) := by
        ext k; simp [Bool.and_xor_distrib_right]
    _ = raw &&& mask := by rw [hchange, BitVec.xor_zero]

/-- Changing unused bits of a word leaves the row it decodes to. -/
theorem opcodeMatch_decode_xor_unused (raw change : Word) :
    opcodeMatch (decode (raw ^^^ (change &&& unusedBits (decode raw)))) = opcodeMatch (decode raw) := by
  refine (wordMatchesItsOpcodeRow _ _).mp ?_
  rw [xor_and_of_disjoint raw change (unusedBits_and_opcodeMask _), and_opcodeMask_decode]

/-- Two words with the same bits under the same unused bits decode alike but for those (R109, R114). -/
theorem clearUnused_decode_congr {a b : Word} (hunused : unusedBits (decode a) = unusedBits (decode b))
    (hbits : a &&& ~~~unusedBits (decode b) = b &&& ~~~unusedBits (decode b)) :
    (decode a).clearUnused = (decode b).clearUnused := by
  have hclear (raw : Word) : (decode raw).clearUnused = decode (raw &&& ~~~unusedBits (decode raw)) := by
    rw [← encode_decode, ← raw_clearUnused, decode_raw]
  rw [hclear, hclear, hunused, hbits]

/-- Unused bits decide no field (R109). -/
theorem clearUnused_decode_xor_unused (raw change : Word) :
    (decode (raw ^^^ (change &&& unusedBits (decode raw)))).clearUnused = (decode raw).clearUnused := by
  apply clearUnused_decode_congr
  · rw [← unusedBits_decode_opcodeMatch, opcodeMatch_decode_xor_unused, unusedBits_decode_opcodeMatch]
  · exact xor_and_of_disjoint raw change (BitVec.and_not_self _)

end Sys2Proof
end

section
/-! PROOFS. No assembler reads an unused payload bit: each gives on words with those bits cleared what it gives on the
words themselves (R109). -/

namespace Sys2Proof.Machine

/-! ### Walks and what a unit reads of a word -/

/-- A walk commutes with a change of the words and of the registers that every visited word commutes with. -/
theorem walk_map {σ : Type} {visit visit' : Instr → σ → Except FatalError σ} (f : Instr → Instr) (g : σ → σ)
    (hvisit : ∀ w r, visit' (f w) (g r) = (visit w r).map g) (ws : List Instr) (r : σ) :
    walk visit' (ws.map f) (g r) = (walk visit ws r).map g := by
  induction ws generalizing r with
  | nil => rfl
  | cons w ws ih =>
    rw [List.map_cons, walk_cons, walk_cons, hvisit]
    cases visit w r with
    | error e => rfl
    | ok r' => exact ih r'

/-- A walk whose visits do not see the unused bits does not. -/
theorem walk_map_clearUnused {σ : Type} {visit visit' : Instr → σ → Except FatalError σ}
    (hvisit : ∀ w r, visit' w.clearUnused r = visit w r) (ws : List Instr) (r : σ) :
    walk visit' (ws.map Instr.clearUnused) r = walk visit ws r := by
  have hid (x : Except FatalError σ) : x.map id = x := congrFun Except.map_id x
  exact (walk_map Instr.clearUnused id (fun w r => (hvisit w r).trans (hid _).symm) ws r).trans (hid _)

@[simp] theorem hitTimeEntry_clearUnused (board : BoardId) (tag : Option GtsTag) (w : Instr) :
    hitTimeEntry board tag w.clearUnused = hitTimeEntry board tag w := by cases w <;> rfl

@[simp] theorem hitAmplitudeEntry_clearUnused (board : BoardId) (tag : Option GtsTag) (w : Instr) :
    hitAmplitudeEntry board tag w.clearUnused = hitAmplitudeEntry board tag w := by cases w <;> rfl

@[simp] theorem gateHeaderBoard_clearUnused (w : Instr) : gateHeaderBoard w.clearUnused = gateHeaderBoard w := by
  cases w <;> rfl

@[simp] theorem isGateHeaderType1_clearUnused (w : Instr) : isGateHeaderType1 w.clearUnused = isGateHeaderType1 w := by
  cases w <;> rfl

@[simp] theorem holdTimeValue_clearUnused (w : Instr) : holdTimeValue w.clearUnused = holdTimeValue w := by
  cases w <;> rfl

@[simp] theorem trailerStatus_clearUnused (w : Instr) : trailerStatus w.clearUnused = trailerStatus w := by
  cases w <;> rfl

@[simp] theorem memRead_map (f : Instr → Instr) (B : List Instr) (k : Nat) :
    memRead (B.map f) k = (memRead B k).map f := List.getElem?_map

@[simp] theorem append_map (f : Instr → Instr) (B : List Instr) (w : Instr) :
    append (B.map f) (f w) = (append B w).map f := by simp [append]

theorem slice_map (f : Instr → Instr) (B : List Instr) (g i : Nat) : slice (B.map f) g i = (slice B g i).map f := by
  simp [slice]

theorem innerWords_map (f : Instr → Instr) (B : List Instr) : innerWords (B.map f) = (innerWords B).map f := by
  simp [innerWords, List.map_dropLast]

/-! ### The GTS Assembler -/

theorem gtsAssemble_clearUnused (board : BoardId) (tag : Option GtsTag) (block : List Instr) :
    gtsAssemble board tag (block.map Instr.clearUnused) = gtsAssemble board tag block := by
  have htime : ∀ w r, gaTimeVisit board tag w.clearUnused r = gaTimeVisit board tag w r := fun w r => by
    simp only [gaTimeVisit, hitTimeEntry_clearUnused]
  have hamp : ∀ w r, gaAmpVisit board tag w.clearUnused r = gaAmpVisit board tag w r := fun w r => by
    simp only [gaAmpVisit, hitAmplitudeEntry_clearUnused]
  simp only [gtsAssemble, gtsRun, walk_map_clearUnused htime, walk_map_clearUnused hamp]

/-! ### The FEB Assembler -/

/-- The registers with the unused bits of every word in the two windows cleared. -/
def FARegs.clearUnused (r : FARegs) : FARegs :=
  { r with
    currentWords := r.currentWords.map Instr.clearUnused
    previousWords := r.previousWords.map Instr.clearUnused }

theorem faFlush_clearUnused (tag : Option GtsTag) (ws : List Instr) (r : FARegs) :
    faFlush tag (ws.map Instr.clearUnused) r.clearUnused = (faFlush tag ws r).map FARegs.clearUnused := by
  have hboard : r.clearUnused.boardId = r.boardId := rfl
  unfold faFlush
  rw [hboard, gtsAssemble_clearUnused]
  by_cases hnil : ws = []
  · simp [hnil, Except.map]
  · rw [if_neg hnil, if_neg (by simpa using hnil)]
    cases gtsAssemble r.boardId tag ws <;> rfl

/-- A word appended to the current window, its unused bits cleared or not. -/
theorem currentAppend_clearUnused (w : Instr) (r : FARegs) :
    { r.clearUnused with currentWords := append r.clearUnused.currentWords w.clearUnused } =
      FARegs.clearUnused { r with currentWords := append r.currentWords w } := by
  simp [FARegs.clearUnused]

theorem faRecordTime_clearUnused (time : BitVec 20) (r : FARegs) :
    faRecordTime time r.clearUnused = (faRecordTime time r).clearUnused := by
  have htag : r.clearUnused.currentTag = r.currentTag := rfl
  unfold faRecordTime
  rw [htag]
  cases r.currentTag <;> rfl

theorem faRoute_clearUnused (w : Instr) (tagId : TagId) (r : FARegs) :
    faRoute w.clearUnused tagId r.clearUnused = (faRoute w tagId r).map FARegs.clearUnused := by
  have hcurrent : r.clearUnused.currentTag = r.currentTag := rfl
  have hprevious : r.clearUnused.previousTag = r.previousTag := rfl
  unfold faRoute
  rw [hcurrent, hprevious]
  split
  · simp [Except.map, FARegs.clearUnused]
  · split
    · simp [Except.map, FARegs.clearUnused]
    · rfl

theorem faGtsTrailer2_clearUnused (w : Instr) (time : BitVec 20) (r : FARegs) :
    faGtsTrailer2 w.clearUnused time r.clearUnused = (faGtsTrailer2 w time r).map FARegs.clearUnused := by
  have hempty : r.clearUnused.currentWords = [] ↔ r.currentWords = [] := List.map_eq_nil_iff
  have hflush : faFlush r.clearUnused.previousTag r.clearUnused.previousWords
        (faRecordTime time { r.clearUnused with currentWords := append r.clearUnused.currentWords w.clearUnused }) =
      (faFlush r.previousTag r.previousWords
        (faRecordTime time { r with currentWords := append r.currentWords w })).map FARegs.clearUnused := by
    rw [currentAppend_clearUnused, faRecordTime_clearUnused]
    exact faFlush_clearUnused _ _ _
  unfold faGtsTrailer2
  by_cases hnil : r.currentWords = []
  · rw [if_pos hnil, if_pos (hempty.mpr hnil)]
    rfl
  · rw [if_neg hnil, if_neg (mt hempty.mp hnil)]
    rw [hflush]
    cases faFlush r.previousTag r.previousWords
      (faRecordTime time { r with currentWords := append r.currentWords w }) <;> rfl

/-- The rule of every kind reads its fields only (R195 to R208). -/
theorem faVisit_clearUnused (w : Instr) (r : FARegs) :
    faVisit w.clearUnused r.clearUnused = (faVisit w r).map FARegs.clearUnused := by
  cases w with
  | gtsHeader g => simp [faVisit, faGtsHeader, Instr.clearUnused, FARegs.clearUnused, Except.map, append]
  | hitTime c k t e x u => exact faRoute_clearUnused (.hitTime c k t e x u) t r
  | hitAmplitude c k t e x => exact faRoute_clearUnused (.hitAmplitude c k t e x) t r
  | gtsTrailer1 g =>
    have htag : r.clearUnused.currentTag = r.currentTag := rfl
    simp only [faVisit, Instr.clearUnused, faGtsTrailer1, htag]
    split
    · simp [Except.map, FARegs.clearUnused, append, Instr.clearUnused]
    · rfl
  | gtsTrailer2 d o f t u => exact faGtsTrailer2_clearUnused (.gtsTrailer2 d o f t u) t r
  | _ => rfl

theorem faEnd_clearUnused (r : FARegs) : faEnd r.clearUnused = (faEnd r).map FARegs.clearUnused := by
  have hflush : faFlush r.clearUnused.previousTag r.clearUnused.previousWords r.clearUnused =
      (faFlush r.previousTag r.previousWords r).map FARegs.clearUnused := faFlush_clearUnused _ _ r
  unfold faEnd
  rw [hflush]
  cases faFlush r.previousTag r.previousWords r with
  | error e => rfl
  | ok r' => exact faFlush_clearUnused r.currentTag r.currentWords r'

theorem faBegin_clearUnused (board : BoardId) (status : TrailerStatus) (S : List Instr) :
    faBegin board status (S.map Instr.clearUnused) = (faBegin board status S).clearUnused := by
  have hhold : capturedHoldTime (S.map Instr.clearUnused) = capturedHoldTime S := by
    simp [capturedHoldTime, Option.bind_map]
  rw [faBegin, hhold]
  rfl

theorem febRun_clearUnused (board : BoardId) (status : TrailerStatus) (S : List Instr) :
    febRun board status (S.map Instr.clearUnused) = (febRun board status S).map FARegs.clearUnused := by
  unfold febRun
  rw [innerWords_map, faBegin_clearUnused, walk_map Instr.clearUnused FARegs.clearUnused faVisit_clearUnused]
  cases walk faVisit (innerWords S) (faBegin board status S) with
  | error e => rfl
  | ok r => exact faEnd_clearUnused r

theorem febAssemble_clearUnused (S : List Instr) : febAssemble (S.map Instr.clearUnused) = febAssemble S := by
  have hboard : (S.map Instr.clearUnused).head?.bind gateHeaderBoard = S.head?.bind gateHeaderBoard := by
    simp [Option.bind_map]
  have hstatus : (S.map Instr.clearUnused).getLast?.bind trailerStatus = S.getLast?.bind trailerStatus := by
    simp [Option.bind_map]
  unfold febAssemble
  rw [hboard, hstatus]
  simp only [List.map_eq_nil_iff, febRun_clearUnused]
  split
  · rfl
  · split
    · rename_i board status _ _
      cases febRun board status S <;> rfl
    · rfl

/-! ### The OCB Assembler -/

theorem oaFebTrailer_clearUnused (B : List Instr) (r : OARegs) :
    oaFebTrailer (B.map Instr.clearUnused) r = oaFebTrailer B r := by
  simp only [oaFebTrailer, oaPlace, slice_map, febAssemble_clearUnused]

theorem oaGateHeaderType0_clearUnused (B : List Instr) (board : BoardId) (r : OARegs) :
    oaGateHeaderType0 (B.map Instr.clearUnused) board r = oaGateHeaderType0 B board r := by
  simp [oaGateHeaderType0, Option.any_map]

/-- The rule of every kind reads its fields only, of the visited word and of the buffer (R240 to R257). -/
theorem oaRule_clearUnused (B : List Instr) (w : Instr) (r : OARegs) :
    oaRule (B.map Instr.clearUnused) w.clearUnused r = oaRule B w r := by
  cases w with
  | gateHeaderType0 board _ _ => exact congrArg Except.ok (oaGateHeaderType0_clearUnused B board r)
  | febDataPacketTrailer _ _ _ _ _ _ _ => exact oaFebTrailer_clearUnused B r
  | _ => rfl

theorem ocbRun_clearUnused (B : List Instr) : ocbRun (B.map Instr.clearUnused) = ocbRun B := by
  have hvisit : ∀ w r, oaVisit (B.map Instr.clearUnused) w.clearUnused r = oaVisit B w r := fun w r => by
    simp only [oaVisit, oaRule_clearUnused]
  unfold ocbRun
  rw [innerWords_map, List.head?_map, List.getLast?_map]
  simp only [walk_map_clearUnused hvisit]
  rcases B.head? with _ | head
  · rfl
  · cases head with
    | ocbPacketHeader _ _ _ =>
      rcases B.getLast? with _ | last
      · rfl
      · cases last <;> rfl
    | _ => rfl

theorem ocbAssemble_clearUnused (B : List Instr) : ocbAssemble (B.map Instr.clearUnused) = ocbAssemble B := by
  rw [ocbAssemble, ocbRun_clearUnused, ocbAssemble]

end Sys2Proof.Machine
end

section
/-! PROOFS. No instruction's step reads an unused payload bit (R109). -/

namespace Sys2Proof.Machine

/-- The state with the unused bits of every buffered word cleared. -/
def State.clearUnused (s : State) : State := { s with buf := s.buf.map Instr.clearUnused }

@[simp] theorem State.clearUnused_insideOcb (s : State) : s.clearUnused.insideOcb = s.insideOcb := rfl
@[simp] theorem State.clearUnused_fault (s : State) : s.clearUnused.fault = s.fault := rfl
@[simp] theorem State.clearUnused_bufFull (s : State) : s.clearUnused.bufFull = s.bufFull := by
  simp [State.bufFull, State.clearUnused]

theorem bufAppend_clearUnused (w : Instr) (s : State) :
    s.clearUnused.bufAppend w.clearUnused = (s.bufAppend w).map State.clearUnused := by
  cases hfull : s.bufFull with
  | true => rw [bufAppend_full hfull, bufAppend_full (by simpa using hfull)]; rfl
  | false =>
    rw [bufAppend_ok hfull, bufAppend_ok (by simpa using hfull)]
    simp [State.clearUnused, Except.map]

theorem sdStray_clearUnused (w : Instr) (s : State) :
    sdStray w.clearUnused s.clearUnused = (sdStray w s).map State.clearUnused := by
  have hparams : s.clearUnused.params = s.params := rfl
  rw [sdStray, sdStray, hparams, clearUnused_wordId]
  cases s.params.strayPolicy <;> rfl

theorem sdInner_clearUnused (w : Instr) (s : State) :
    sdInner w.clearUnused s.clearUnused = (sdInner w s).map State.clearUnused := by
  rw [sdInner, sdInner, State.clearUnused_insideOcb]
  split
  · exact bufAppend_clearUnused w s
  · exact sdStray_clearUnused w s

theorem sdOpen_clearUnused (w : Instr) (s : State) :
    sdOpen w.clearUnused s.clearUnused = (sdOpen w s).map State.clearUnused := by
  rw [sdOpen, sdOpen, State.clearUnused_insideOcb]
  split
  · rfl
  · exact bufAppend_clearUnused w { s with buf := [], insideOcb := true }

theorem sdClose_clearUnused (w : Instr) (s : State) :
    sdClose w.clearUnused s.clearUnused = (sdClose w s).map State.clearUnused := by
  rw [sdClose, sdClose, State.clearUnused_insideOcb]
  split
  · rw [bufAppend_clearUnused]
    cases s.bufAppend w with
    | error e => rfl
    | ok s' =>
      have hassemble : ocbAssemble s'.clearUnused.buf = ocbAssemble s'.buf := ocbAssemble_clearUnused s'.buf
      simp only [Except.map, hassemble]
      cases ocbAssemble s'.buf <;> rfl
  · exact sdStray_clearUnused w s

/-- The step of a word does not see the unused bits if its rule does not. -/
theorem wordStep_clearUnused {rule rule' : State → Except FatalError State}
    (hrule : ∀ s, rule' s.clearUnused = (rule s).map State.clearUnused) {s t : State} (h : wordStep rule s = .next t) :
    wordStep rule' s.clearUnused = .next t.clearUnused := by
  rcases wordStep_cases rule s with ⟨hf, hw⟩ | ⟨hf, s', hr, hw⟩ | ⟨hf, e, hr, hw⟩ <;> cases hw.symm.trans h
  · simp only [wordStep, State.clearUnused_fault, hf, if_true]
    rfl
  · have hr' : rule' s.clearUnused.consume = .ok s'.clearUnused := (hrule s.consume).trans (by rw [hr]; rfl)
    exact wordStep_ok (s := s.clearUnused) hf hr'
  · have hr' : rule' s.clearUnused.consume = .error e := (hrule s.consume).trans (by rw [hr]; rfl)
    exact wordStep_error (s := s.clearUnused) hf hr'

/-- Every instruction does with the unused bits cleared what it does without (R109). -/
theorem exec_clearUnused {i : Instr} {s t : State} (h : exec i s = .next t) :
    exec i.clearUnused s.clearUnused = .next t.clearUnused := by
  cases hi : i.interior with
  | true =>
    rw [exec_interior i s hi] at h
    rw [exec_interior _ _ ((clearUnused_interior i).trans hi)]
    exact wordStep_clearUnused (sdInner_clearUnused i) h
  | false =>
    cases i with
    | ocbPacketHeader gateType gateTag eventNumber =>
      exact wordStep_clearUnused (sdOpen_clearUnused (.ocbPacketHeader gateType gateTag eventNumber)) h
    | ocbPacketTrailer gateType gateTag errors unused =>
      exact wordStep_clearUnused (sdClose_clearUnused (.ocbPacketTrailer gateType gateTag errors unused)) h
    | reserved0xA payload =>
      exact wordStep_clearUnused (rule := sdInvalid 0xA#4) (rule' := sdInvalid 0xA#4) (fun _ => rfl) h
    | _ => cases hi

/-- Settles O4: the row of a word fixes its unused bits and no field reads them; nor does any rule. -/
theorem unusedBitsAreIgnored : Obligations.UnusedBitsAreIgnored :=
  ⟨clearUnused_decode_xor_unused, fun _ _ _ h => exec_clearUnused h⟩

end Sys2Proof.Machine
end

section
/-! PROOFS. The trailer error bitmap (R117, R37). -/

namespace Sys2Proof.Machine

/-- Bits 0 to 13 name the errors of their FEBs (R117). -/
theorem trailerErrorBit_of_lt (k : Fin 16) (h : k.val < 14) : trailerErrorBit k = .febError ⟨k.val, h⟩ := dif_pos h

/-- `errors[k]` is the binary digit of weight `2^k` (R37). -/
theorem errorBit_eq (ev : OCBEvent) (k : Fin 16) : ev.errorBit k = decide (ev.errors.toNat / 2 ^ k.val % 2 = 1) :=
  Nat.testBit_eq_decide_div_mod_eq

/-- Settles O58: the cases of the bit's number, and the bitmap as a binary numeral. -/
theorem errorBitsNameConditions : Obligations.ErrorBitsNameConditions :=
  ⟨fun k => trailerErrorBit_of_lt ⟨k.val, by omega⟩ k.isLt, rfl, rfl, errorBit_eq⟩

end Sys2Proof.Machine
end

section
/-! PROOFS. The Word Decoder's contract: which words it refuses, and its example words (R130, R141, R147). -/

namespace Sys2Proof

/-- What a word decodes to is well formed exactly when the word's id is a known one (R147). -/
theorem wellFormed_decode_iff (raw : Word) : (decode raw).wellFormed = true ↔ idOf raw ≠ 0xA#4 := by
  rw [Instr.wellFormed, wordId_decode, WordId.known, bne_iff_ne]

/-- The Word Decoder refuses a word of the reserved id, whatever its payload (R141). -/
theorem wordDecode_of_idOf_eq {raw : Word} (h : idOf raw = 0xA#4) : wordDecode raw = .error (.invalidWord 0xA#4) := by
  have hbad : ¬ (decode raw).wellFormed = true := fun hwf => (wellFormed_decode_iff raw).mp hwf h
  rw [wordDecode, if_neg hbad, h]

/-- The Word Decoder accepts a word of any other id (R130). -/
theorem wordDecode_of_idOf_ne {raw : Word} (h : idOf raw ≠ 0xA#4) : wordDecode raw = .ok (decode raw) :=
  if_pos ((wellFormed_decode_iff raw).mpr h)

/-- Settles O3: the id decides whether a word is refused, and what an accepted word decodes to has its id and raw word. -/
theorem onlyReservedIdIsInvalid : Obligations.OnlyReservedIdIsInvalid := fun raw =>
  ⟨wordDecode_of_idOf_eq, fun h => ⟨decode raw, wordDecode_of_idOf_ne h, wordId_decode raw, raw_decode raw⟩⟩

/-- Settles O1: each example word is cut into its fields by evaluation; the reserved row's is refused for its id. -/
theorem decoderReadsExampleWords : Obligations.DecoderReadsExampleWords :=
  ⟨rfl, rfl, rfl, rfl, rfl, rfl, rfl, rfl, rfl, rfl, rfl, wordDecode_of_idOf_eq rfl, rfl, rfl, rfl, rfl, rfl⟩

end Sys2Proof
end

section
/-! PROOFS. What one hit word does to the merge maps of the GTS Assembler (R163, R164, R166). -/

namespace Sys2Proof.Machine

/-- A rising edge whose key has no open record inserts the record it creates (R163). -/
theorem gaTimeVisit_rising (board : BoardId) (tag : Option GtsTag) {c : ChannelId} {h : HitId} (t : TagId)
    (x : BitVec 13) (u : BitVec 1) {r : GARegs} (hfind : KeyMap.find (timeKey c h) r.timeMap = none) :
    gaTimeVisit board tag (.hitTime c h t 0#1 x u) r =
      .ok { r with
        timeMap := KeyMap.insert (timeKey c h)
          { channelId := c, hitId := h, riseTime := x, riseTagId := t, riseGtsTag := tag,
            fallTime := none, fallTagId := none, fallGtsTag := none } r.timeMap } := by
  simp [gaTimeVisit, hitTimeEntry, gaHitTime, gaRise, hfind, risingRecord]

/-- A rising edge whose key has an open record fails (R163). -/
theorem gaTimeVisit_rising_duplicate (board : BoardId) (tag : Option GtsTag) {c : ChannelId} {h : HitId} (t : TagId)
    (x : BitVec 13) (u : BitVec 1) {r : GARegs} (hfind : KeyMap.find (timeKey c h) r.timeMap ≠ none) :
    gaTimeVisit board tag (.hitTime c h t 0#1 x u) r = .error (.duplicateRisingEdge c h) := by
  obtain ⟨m, hm⟩ := Option.ne_none_iff_exists'.mp hfind
  simp [gaTimeVisit, hitTimeEntry, gaHitTime, gaRise, hm]

/-- A falling edge whose key has an open record moves the record, completed, from the map to the output (R164). -/
theorem gaTimeVisit_falling (board : BoardId) (tag : Option GtsTag) {c : ChannelId} {h : HitId} (t : TagId)
    (x : BitVec 13) (u : BitVec 1) {r : GARegs} {m : MergedHitTime}
    (hfind : KeyMap.find (timeKey c h) r.timeMap = some m) :
    gaTimeVisit board tag (.hitTime c h t 1#1 x u) r =
      .ok { r with
        timeMap := KeyMap.erase (timeKey c h) r.timeMap
        timeOut := r.timeOut ++ [{ m with fallTime := some x, fallTagId := some t, fallGtsTag := tag }] } := by
  simp [gaTimeVisit, hitTimeEntry, gaHitTime, gaFall, hfind, MergedHitTime.complete]

/-- A falling edge whose key has no open record fails (R164). -/
theorem gaTimeVisit_falling_first (board : BoardId) (tag : Option GtsTag) {c : ChannelId} {h : HitId} (t : TagId)
    (x : BitVec 13) (u : BitVec 1) {r : GARegs} (hfind : KeyMap.find (timeKey c h) r.timeMap = none) :
    gaTimeVisit board tag (.hitTime c h t 1#1 x u) r = .error (.fallingBeforeRising c h) := by
  simp [gaTimeVisit, hitTimeEntry, gaHitTime, gaFall, hfind]

/-- The channel's record with the sample of a HitAmplitude of identifier `a` in its gain (R112, R166). -/
def MergedHitAmplitude.withSample (m : MergedHitAmplitude) (tag : Option GtsTag) (t : TagId) (a : BitVec 3)
    (x : BitVec 12) : MergedHitAmplitude :=
  if a = 2#3 then { m with hgAmplitude := some x, hgTagId := some t, hgGtsTag := tag }
  else { m with lgAmplitude := some x, lgTagId := some t, lgGtsTag := tag }

/-- A sample whose gain is not set yet is written into the record of its channel (R166). -/
theorem gaAmpVisit_unset (board : BoardId) (tag : Option GtsTag) {c : ChannelId} (h : HitId) (t : TagId) {a : BitVec 3}
    (x : BitVec 12) {r : GARegs} (hhigh : a = 2#3 → (ampRecord c r).hgAmplitude = none)
    (hlow : a ≠ 2#3 → (ampRecord c r).lgAmplitude = none) :
    gaAmpVisit board tag (.hitAmplitude c h t a x) r =
      .ok { r with ampMap := KeyMap.insert c.toNat ((ampRecord c r).withSample tag t a x) r.ampMap } := by
  by_cases ha : a = 2#3
  · simp [gaAmpVisit, hitAmplitudeEntry, gaHitAmplitude, isHighGain, gaHighGain, MergedHitAmplitude.withSample, ha,
      hhigh ha]
  · simp [gaAmpVisit, hitAmplitudeEntry, gaHitAmplitude, isHighGain, gaLowGain, MergedHitAmplitude.withSample, ha,
      hlow ha]

/-- A second high-gain sample of a channel fails (R166). -/
theorem gaAmpVisit_high_duplicate (board : BoardId) (tag : Option GtsTag) {c : ChannelId} (h : HitId) (t : TagId)
    (x : BitVec 12) {r : GARegs} (hset : (ampRecord c r).hgAmplitude ≠ none) :
    gaAmpVisit board tag (.hitAmplitude c h t 2#3 x) r = .error (.duplicateGainHG c) := by
  simp [gaAmpVisit, hitAmplitudeEntry, gaHitAmplitude, isHighGain, gaHighGain, Option.isSome_iff_ne_none, hset]

/-- A second low-gain sample of a channel fails (R166). -/
theorem gaAmpVisit_low_duplicate (board : BoardId) (tag : Option GtsTag) {c : ChannelId} (h : HitId) (t : TagId)
    {a : BitVec 3} (ha : a ≠ 2#3) (x : BitVec 12) {r : GARegs} (hset : (ampRecord c r).lgAmplitude ≠ none) :
    gaAmpVisit board tag (.hitAmplitude c h t a x) r = .error (.duplicateGainLG c) := by
  simp [gaAmpVisit, hitAmplitudeEntry, gaHitAmplitude, isHighGain, gaLowGain, Option.isSome_iff_ne_none, ha, hset]

/-- Settles O28: the insert writes one key, and the number of a key names it. -/
theorem risingEdgeOpensRecord : Obligations.RisingEdgeOpensRecord := by
  intro board tag c h t x u r
  refine ⟨gaTimeVisit_rising_duplicate board tag t x u, fun hfind =>
    ⟨_, gaTimeVisit_rising board tag t x u hfind, KeyMap.find_insert_self _ _ _, fun c' h' hne => ?_, rfl, rfl, rfl⟩⟩
  exact KeyMap.find_insert_ne _ _ _ _ (timeKey_ne hne)

/-- Settles O29: the erasure takes away one key, which a canonical map holds once. -/
theorem fallingEdgeCompletesRecord : Obligations.FallingEdgeCompletesRecord := by
  intro board tag c h t x u r hwf
  refine ⟨gaTimeVisit_falling_first board tag t x u, fun m hfind =>
    ⟨_, gaTimeVisit_falling board tag t x u hfind, rfl, KeyMap.find_erase_self _ _ hwf, fun c' h' hne => ?_,
      KeyMap.wf_erase _ _ hwf, rfl, rfl⟩⟩
  exact KeyMap.find_erase_ne _ _ _ (timeKey_ne hne)

/-- Settles O30: the record of the statement is the one the word finds or creates, and the insert writes one channel. -/
theorem amplitudeSetsOneGain : Obligations.AmplitudeSetsOneGain := by
  intro board tag c h t a x r m hm
  obtain rfl : m = ampRecord c r := hm
  refine ⟨?_, fun ha => gaAmpVisit_low_duplicate board tag h t ha x, fun hhigh hlow =>
    ⟨_, gaAmpVisit_unset board tag h t x hhigh hlow, KeyMap.find_insert_self _ _ _, fun c' hne => ?_, rfl, rfl, rfl⟩⟩
  · rintro rfl
    exact gaAmpVisit_high_duplicate board tag h t x
  · exact KeyMap.find_insert_ne _ _ _ _ (BitVec.toNat_ne_iff_ne.mpr hne)

end Sys2Proof.Machine
end

section
/-! PROOFS. A run of the GTS Assembler as two passes that do not see each other (R167, R169, R172). -/

namespace Sys2Proof.Machine

/-- The time records of a block: the first pass alone, from empty registers (R167, R168). -/
def gtsTimes (board : BoardId) (tag : Option GtsTag) (block : List Instr) : Except FatalError (List MergedHitTime) :=
  (walk (gaTimeVisit board tag) block GARegs.start).map fun r => r.timeOut ++ KeyMap.values r.timeMap

/-- The amplitude records of a block: the second pass alone, from empty registers (R167, R168). -/
def gtsAmps (board : BoardId) (tag : Option GtsTag) (block : List Instr) : Except FatalError (List MergedHitAmplitude) :=
  (walk (gaAmpVisit board tag) block GARegs.start).map fun r => KeyMap.values r.ampMap

/-- The registers with the amplitude map alone, what the second pass reads and writes. -/
def GARegs.ampOnly (r : GARegs) : GARegs := { GARegs.start with ampMap := r.ampMap }

@[simp] theorem ampRecord_ampOnly (c : ChannelId) (r : GARegs) : ampRecord c r.ampOnly = ampRecord c r := rfl

theorem gaHighGain_ampOnly (e : HitAmplitudeEntry) (r : GARegs) :
    gaHighGain e r.ampOnly = (gaHighGain e r).map GARegs.ampOnly := by
  unfold gaHighGain
  rw [ampRecord_ampOnly]
  cases (ampRecord e.channelId r).hgAmplitude.isSome <;> rfl

theorem gaLowGain_ampOnly (e : HitAmplitudeEntry) (r : GARegs) :
    gaLowGain e r.ampOnly = (gaLowGain e r).map GARegs.ampOnly := by
  unfold gaLowGain
  rw [ampRecord_ampOnly]
  cases (ampRecord e.channelId r).lgAmplitude.isSome <;> rfl

/-- A word of the second pass does not see the time registers. -/
theorem gaAmpVisit_ampOnly (board : BoardId) (tag : Option GtsTag) (w : Instr) (r : GARegs) :
    gaAmpVisit board tag w r.ampOnly = (gaAmpVisit board tag w r).map GARegs.ampOnly := by
  unfold gaAmpVisit
  cases hitAmplitudeEntry board tag w with
  | none => rfl
  | some e =>
    simp only [gaHitAmplitude]
    split
    · exact gaHighGain_ampOnly e r
    · exact gaLowGain_ampOnly e r

theorem ampWalk_ampOnly (board : BoardId) (tag : Option GtsTag) (ws : List Instr) (r : GARegs) :
    walk (gaAmpVisit board tag) ws r.ampOnly = (walk (gaAmpVisit board tag) ws r).map GARegs.ampOnly := by
  simpa using walk_map id GARegs.ampOnly (gaAmpVisit_ampOnly board tag) ws r

/-- The run is the two passes, each from empty registers, and an error of the first hides one of the second (R167). -/
theorem gtsAssemble_eq (board : BoardId) (tag : Option GtsTag) (block : List Instr) :
    gtsAssemble board tag block =
      (gtsTimes board tag block).bind fun times => (gtsAmps board tag block).map fun amps => (times, amps) := by
  unfold gtsAssemble gtsRun gtsTimes gtsAmps
  cases htime : walk (gaTimeVisit board tag) block GARegs.start with
  | error e => rfl
  | ok r =>
    obtain ⟨hmap, hout⟩ := timeWalk_amp htime
    have hstart : GARegs.start = r.ampOnly := by rw [GARegs.ampOnly, hmap]
    rw [hstart, ampWalk_ampOnly]
    dsimp only
    cases hamp : walk (gaAmpVisit board tag) block r with
    | error e => rfl
    | ok r' =>
      obtain ⟨htimeMap, htimeOut, hampOut⟩ := ampWalk_time hamp
      simp [gaFinish, GARegs.ampOnly, Except.map, Except.bind, htimeMap, htimeOut, hampOut, hout, GARegs.start]

theorem gaTimeVisit_skip (board : BoardId) (tag : Option GtsTag) (w : Instr) (r : GARegs) (h : isHitTime w = false) :
    gaTimeVisit board tag w r = .ok r := by
  rw [gaTimeVisit, hitTimeEntry_none.mpr h]

theorem gaAmpVisit_skip (board : BoardId) (tag : Option GtsTag) (w : Instr) (r : GARegs)
    (h : isHitAmplitude w = false) : gaAmpVisit board tag w r = .ok r := by
  rw [gaAmpVisit, hitAmplitudeEntry_none.mpr h]

theorem gtsTimes_filter (board : BoardId) (tag : Option GtsTag) (block : List Instr) :
    gtsTimes board tag (block.filter isHitTime) = gtsTimes board tag block := by
  rw [gtsTimes, walk_filter isHitTime (gaTimeVisit_skip board tag), gtsTimes]

theorem gtsAmps_filter (board : BoardId) (tag : Option GtsTag) (block : List Instr) :
    gtsAmps board tag (block.filter isHitAmplitude) = gtsAmps board tag block := by
  rw [gtsAmps, walk_filter isHitAmplitude (gaAmpVisit_skip board tag), gtsAmps]

theorem gtsTimes_of_no_hitTime (board : BoardId) (tag : Option GtsTag) {block : List Instr}
    (h : ∀ w ∈ block, isHitTime w = false) : gtsTimes board tag block = .ok [] := by
  rw [← gtsTimes_filter, List.filter_eq_nil_iff.mpr fun w hw => by simp [h w hw]]
  rfl

theorem gtsAmps_of_no_hitAmplitude (board : BoardId) (tag : Option GtsTag) {block : List Instr}
    (h : ∀ w ∈ block, isHitAmplitude w = false) : gtsAmps board tag block = .ok [] := by
  rw [← gtsAmps_filter, List.filter_eq_nil_iff.mpr fun w hw => by simp [h w hw]]
  rfl

/-- A HitTime is no HitAmplitude. -/
theorem not_hitAmplitude_of_isHitTime {w : Instr} (h : isHitTime w = true) : isHitAmplitude w = false := by
  cases w with
  | hitAmplitude => cases h
  | _ => rfl

/-- A HitAmplitude is no HitTime. -/
theorem not_hitTime_of_isHitAmplitude {w : Instr} (h : isHitAmplitude w = true) : isHitTime w = false := by
  cases w with
  | hitTime => cases h
  | _ => rfl

/-- A word with no `tag_id` to route is of neither kind of hit word (R196). -/
theorem not_hit_of_hitTagId_none {w : Instr} (h : hitTagId w = none) : isHitTime w = false ∧ isHitAmplitude w = false := by
  cases w with
  | hitTime | hitAmplitude => cases h
  | _ => exact ⟨rfl, rfl⟩

/-- Settles O32: on the HitTime words alone the second pass is empty, and on the HitAmplitude words alone the first is. -/
theorem hitPassesAreSeparate : Obligations.HitPassesAreSeparate := by
  intro board tag block
  have hamps : gtsAmps board tag (block.filter isHitTime) = .ok [] :=
    gtsAmps_of_no_hitAmplitude board tag fun w hw => not_hitAmplitude_of_isHitTime (List.mem_filter.mp hw).2
  have htimes : gtsTimes board tag (block.filter isHitAmplitude) = .ok [] :=
    gtsTimes_of_no_hitTime board tag fun w hw => not_hitTime_of_isHitAmplitude (List.mem_filter.mp hw).2
  rw [gtsAssemble_eq, gtsAssemble_eq, gtsAssemble_eq, hamps, htimes, gtsTimes_filter, gtsAmps_filter]
  cases gtsTimes board tag block <;> cases gtsAmps board tag block <;> rfl

/-- Settles O33: both passes skip every word of the block. -/
theorem blockWithoutHitsIsEmpty : Obligations.BlockWithoutHitsIsEmpty := by
  intro board tag block h
  rw [gtsAssemble_eq, gtsTimes_of_no_hitTime board tag fun w hw => (not_hit_of_hitTagId_none (h w hw)).1,
    gtsAmps_of_no_hitAmplitude board tag fun w hw => (not_hit_of_hitTagId_none (h w hw)).2]
  rfl

end Sys2Proof.Machine
end

section
/-! PROOFS. What every record of a run satisfies (R161, R170). -/

namespace Sys2Proof.Machine

/-- What a rising edge gives its record and a falling edge keeps holds of every time record of a run (R168). -/
theorem gtsAssemble_times_all {board : BoardId} {tag : Option GtsTag} {block : List Instr} {timeOut : List MergedHitTime}
    {ampOut : List MergedHitAmplitude} (P : MergedHitTime → Prop)
    (hrise : ∀ w ∈ block, ∀ e, hitTimeEntry board tag w = some e → P (risingRecord e))
    (hfall : ∀ w ∈ block, ∀ e, hitTimeEntry board tag w = some e → ∀ m, P m → P (m.complete e))
    (h : gtsAssemble board tag block = .ok (timeOut, ampOut)) : ∀ m ∈ timeOut, P m := by
  obtain ⟨r, _, hwalk, _, _, rfl, _⟩ := gtsAssemble_ok h
  obtain ⟨hmap, hout⟩ : (∀ x ∈ r.timeMap, P x.2) ∧ ∀ m ∈ r.timeOut, P m := by
    refine walk_keeps (fun r => (∀ x ∈ r.timeMap, P x.2) ∧ ∀ m ∈ r.timeOut, P m) ?_ hwalk
      ⟨fun _ hx => absurd hx List.not_mem_nil, fun _ hm => absurd hm List.not_mem_nil⟩
    rintro w hw r r' hvisit ⟨hmap, hout⟩
    rcases gaTimeVisit_cases hvisit with ⟨_, rfl⟩ | ⟨e, he, _, _, rfl⟩ | ⟨e, m, he, _, hfind, rfl⟩
    · exact ⟨hmap, hout⟩
    · refine ⟨fun x hx => ?_, hout⟩
      rcases KeyMap.mem_insert _ _ _ hx with rfl | hx
      · exact hrise w hw e he
      · exact hmap x hx
    · refine ⟨fun x hx => hmap x (KeyMap.mem_erase _ _ hx), fun m' hm' => ?_⟩
      rcases List.mem_append.mp hm' with hm' | hm'
      · exact hout m' hm'
      · rw [List.mem_singleton.mp hm']
        exact hfall w hw e he m (hmap _ (KeyMap.mem_of_find _ _ hfind))
  intro m hm
  rcases List.mem_append.mp hm with hm | hm
  · exact hout m hm
  · obtain ⟨x, hx, rfl⟩ := List.mem_map.mp hm
    exact hmap x hx

/-- Every tag that an amplitude record stores is `tag`. -/
def MergedHitAmplitude.storesTag (tag : Option GtsTag) (m : MergedHitAmplitude) : Prop :=
  (m.lgAmplitude ≠ none → m.lgGtsTag = tag) ∧ (m.hgAmplitude ≠ none → m.hgGtsTag = tag)

/-- The record that a sample is written into stores the run's tag only. -/
theorem ampRecord_storesTag {tag : Option GtsTag} {r : GARegs} (h : ∀ x ∈ r.ampMap, x.2.storesTag tag) (c : ChannelId) :
    (ampRecord c r).storesTag tag := by
  unfold ampRecord
  cases hfind : KeyMap.find c.toNat r.ampMap with
  | none => exact ⟨fun hset => absurd rfl hset, fun hset => absurd rfl hset⟩
  | some m => exact h _ (KeyMap.mem_of_find _ _ hfind)

/-- The amplitude records of a run store its tag operand (R161). -/
theorem gtsAssemble_amps_storeTag {board : BoardId} {tag : Option GtsTag} {block : List Instr}
    {timeOut : List MergedHitTime} {ampOut : List MergedHitAmplitude}
    (h : gtsAssemble board tag block = .ok (timeOut, ampOut)) : ∀ m ∈ ampOut, m.storesTag tag := by
  obtain ⟨r, r', _, hwalk, hstart, _, rfl⟩ := gtsAssemble_ok h
  have hmap : ∀ x ∈ r'.ampMap, x.2.storesTag tag := by
    refine walk_keeps (fun r => ∀ x ∈ r.ampMap, x.2.storesTag tag) ?_ hwalk
      (fun x hx => absurd (hstart ▸ hx) List.not_mem_nil)
    intro w _ r r' hvisit hr x hx
    rcases gaAmpVisit_cases hvisit with ⟨_, rfl⟩ | ⟨e, he, _, _, rfl⟩ | ⟨e, he, _, _, rfl⟩
    · exact hr x hx
    all_goals
      obtain ⟨rfl, _, _⟩ := hitAmplitudeEntry_operands he
      obtain ⟨hlow, hhigh⟩ := ampRecord_storesTag hr e.channelId
      rcases KeyMap.mem_insert _ _ _ hx with rfl | hx
    · exact ⟨hlow, fun _ => rfl⟩
    · exact hr x hx
    · exact ⟨fun _ => rfl, hhigh⟩
    · exact hr x hx
  intro m hm
  obtain ⟨x, hx, rfl⟩ := List.mem_map.mp hm
  exact hmap x hx

/-- Settles O36: each edge and each sample is stored with the tag of its entry, which is the run's. -/
theorem recordsCarryTheRunsTag : Obligations.RecordsCarryTheRunsTag := by
  intro board tag block timeOut ampOut h
  refine ⟨gtsAssemble_times_all (fun m => m.riseGtsTag = tag ∧ (m.fallTime ≠ none → m.fallGtsTag = tag)) ?_ ?_ h,
    gtsAssemble_amps_storeTag h⟩
  · intro w _ e he
    exact ⟨(hitTimeEntry_operands he).1, fun hset => absurd rfl hset⟩
  · rintro w _ e he m ⟨hrise, _⟩
    exact ⟨hrise, fun _ => (hitTimeEntry_operands he).1⟩

/-- Settles O37: both tag ids of a completed record are those of hit words of the block. -/
theorem completedRecordsShareTagBits : Obligations.CompletedRecordsShareTagBits := by
  intro board g block timeOut ampOut hbits h m hm hfell
  have hentry : ∀ w ∈ block, ∀ e, hitTimeEntry board (some g) w = some e → e.tagId.toNat = g.toNat % 4 :=
    fun w hw e he => hbits w hw e.tagId (hitTimeEntry_operands he).2.1
  obtain ⟨hrise, hfall⟩ := gtsAssemble_times_all
    (fun m => m.riseTagId.toNat = g.toNat % 4 ∧ (m.fallTime ≠ none → m.fallTagId = some m.riseTagId))
    (fun w hw e he => ⟨hentry w hw e he, fun hset => absurd rfl hset⟩)
    (fun w hw e he m hm =>
      ⟨hm.1, fun _ => congrArg some (BitVec.eq_of_toNat_eq ((hentry w hw e he).trans hm.1.symm))⟩) h m hm
  exact ⟨hrise, hfall hfell⟩

end Sys2Proof.Machine
end

section
/-! PROOFS. What the records of a run are, together: one for each rising edge, and one for each channel with a sample
(R168, R170). -/

namespace Sys2Proof.Machine

/-- The induction over a walk for a property of the words visited so far. -/
theorem walk_induction {σ : Type} {visit : Instr → σ → Except FatalError σ} (P : List Instr → σ → Prop)
    (hstep : ∀ seen w r r', visit w r = .ok r' → P seen r → P (seen ++ [w]) r') {seen ws : List Instr} {r t : σ}
    (h : walk visit ws r = .ok t) (hr : P seen r) : P (seen ++ ws) t := by
  induction ws generalizing seen r with
  | nil => cases h; simpa using hr
  | cons w ws ih =>
    obtain ⟨r', hvisit, hwalk⟩ := walk_cons_ok.mp h
    simpa using ih hwalk (hstep seen w r r' hvisit hr)

/-! ### The entries of the merge maps -/

section
variable {α : Type} {k : Nat} {v : α} {m : KeyMap α}

/-- A new key adds its entry to the others. -/
theorem KeyMap.insert_perm (h : KeyMap.find k m = none) : (KeyMap.insert k v m).Perm ((k, v) :: m) := by
  induction m with
  | nil => exact .refl _
  | cons p m ih =>
    simp only [find] at h
    split at h
    · cases h
    · rename_i hne
      simp only [insert, if_neg hne]
      split
      · exact .refl _
      · exact ((ih h).cons p).trans (.swap _ _ _)

/-- An erasure takes away the entry found at the key and no other. -/
theorem KeyMap.perm_erase (h : KeyMap.find k m = some v) : m.Perm ((k, v) :: KeyMap.erase k m) := by
  induction m with
  | nil => cases h
  | cons p m ih =>
    simp only [find] at h
    simp only [erase]
    split at h
    · rename_i heq
      cases h
      rw [if_pos heq, heq]
    · rename_i hne
      rw [if_neg hne]
      exact ((ih h).cons p).trans (.swap _ _ _)

/-- A write adds its key to the keys. -/
theorem KeyMap.mem_keys_insert {k' : Nat} : k' ∈ (KeyMap.insert k v m).map Prod.fst ↔ k' = k ∨ k' ∈ m.map Prod.fst := by
  induction m with
  | nil => simp [insert]
  | cons p m ih =>
    simp only [insert]
    split
    · simp
    · split
      · rename_i heq
        simp [heq]
      · simp only [List.map_cons, List.mem_cons, ih]
        tauto

end

/-! ### The time records -/

/-- What a rising edge leaves in its record. -/
def MergedHitTime.riseFields (m : MergedHitTime) : ChannelId × HitId × BitVec 13 × TagId :=
  (m.channelId, m.hitId, m.riseTime, m.riseTagId)

/-- What a falling edge leaves in its record. -/
def MergedHitTime.fallFields (m : MergedHitTime) : ChannelId × HitId × Option (BitVec 13) × Option TagId :=
  (m.channelId, m.hitId, m.fallTime, m.fallTagId)

/-- The edges that a word's entry stands for (R162). -/
theorem edges_of_hitTimeEntry {board : BoardId} {tag : Option GtsTag} {w : Instr} {e : HitTimeEntry}
    (h : hitTimeEntry board tag w = some e) :
    risingEdge w = (if e.edge = 0#1 then some (e.channelId, e.hitId, e.hitTime, e.tagId) else none) ∧
      fallingEdge w = (if e.edge = 0#1 then none else some (e.channelId, e.hitId, e.hitTime, e.tagId)) := by
  cases w <;> cases h
  exact ⟨rfl, rfl⟩

theorem edges_of_not_hitTime {w : Instr} (h : isHitTime w = false) : risingEdge w = none ∧ fallingEdge w = none := by
  cases w with
  | hitTime => cases h
  | _ => exact ⟨rfl, rfl⟩

theorem isRisingEdge_eq_isSome (w : Instr) : isRisingEdge w = (risingEdge w).isSome := by
  cases w with
  | hitTime c h t edge x u => by_cases hedge : edge = 0#1 <;> simp [isRisingEdge, risingEdge, hedge]
  | _ => rfl

/-- What stands in the time registers after the words `seen`: the map holds rising-only records, each under the number
of its key; map and output together hold the rising edges seen, the output the falling edges seen in order. -/
structure GARegs.timesOf (seen : List Instr) (r : GARegs) : Prop where
  mapWf : KeyMap.wf r.timeMap = true
  keyed : ∀ x ∈ r.timeMap, x.1 = timeKey x.2.channelId x.2.hitId
  risingOnly : ∀ x ∈ r.timeMap, x.2.fallTime = none ∧ x.2.fallTagId = none ∧ x.2.fallGtsTag = none
  rises : ((r.timeOut ++ KeyMap.values r.timeMap).map MergedHitTime.riseFields).Perm (seen.filterMap risingEdge)
  falls : r.timeOut.map MergedHitTime.fallFields =
    (seen.filterMap fallingEdge).map fun (c, h, x, t) => (c, h, some x, some t)

theorem start_timesOf : GARegs.start.timesOf [] where
  mapWf := rfl
  keyed _ hx := absurd hx List.not_mem_nil
  risingOnly _ hx := absurd hx List.not_mem_nil
  rises := .refl _
  falls := rfl

/-- A word of another kind adds no edge. -/
theorem GARegs.timesOf.skip {seen : List Instr} {w : Instr} {r : GARegs} (hr : r.timesOf seen)
    (h : isHitTime w = false) : r.timesOf (seen ++ [w]) := by
  obtain ⟨hrising, hfalling⟩ := edges_of_not_hitTime h
  exact { hr with
    rises := by simpa [hrising] using hr.rises
    falls := by simpa [hfalling] using hr.falls }

/-- A rising edge adds its record to the map (R163). -/
theorem GARegs.timesOf.rise {board : BoardId} {tag : Option GtsTag} {seen : List Instr} {w : Instr} {r : GARegs}
    {e : HitTimeEntry} (hr : r.timesOf seen) (he : hitTimeEntry board tag w = some e) (hedge : e.edge = 0#1)
    (hfind : KeyMap.find (timeKey e.channelId e.hitId) r.timeMap = none) :
    GARegs.timesOf (seen ++ [w])
      { r with timeMap := KeyMap.insert (timeKey e.channelId e.hitId) (risingRecord e) r.timeMap } := by
  obtain ⟨hrising, hfalling⟩ := edges_of_hitTimeEntry he
  rw [if_pos hedge] at hrising hfalling
  refine ⟨KeyMap.wf_insert _ _ _ hr.mapWf, fun x hx => ?_, fun x hx => ?_, ?_, by simpa [hfalling] using hr.falls⟩
  · rcases KeyMap.mem_insert _ _ _ hx with rfl | hx
    · rfl
    · exact hr.keyed x hx
  · rcases KeyMap.mem_insert _ _ _ hx with rfl | hx
    · exact ⟨rfl, rfl, rfl⟩
    · exact hr.risingOnly x hx
  · have hvalues : (KeyMap.values (KeyMap.insert _ (risingRecord e) r.timeMap)).Perm
        (risingRecord e :: KeyMap.values r.timeMap) := (KeyMap.insert_perm hfind).map Prod.snd
    calc (r.timeOut ++ KeyMap.values (KeyMap.insert _ (risingRecord e) r.timeMap)).map MergedHitTime.riseFields
      List.Perm _ ((risingRecord e :: (r.timeOut ++ KeyMap.values r.timeMap)).map MergedHitTime.riseFields) :=
        ((hvalues.append_left _).trans List.perm_middle).map _
      List.Perm _ ((risingRecord e).riseFields :: seen.filterMap risingEdge) := hr.rises.cons _
      List.Perm _ (seen.filterMap risingEdge ++ [(risingRecord e).riseFields]) := (List.perm_append_singleton _ _).symm
      _ = (seen ++ [w]).filterMap risingEdge := by simp [hrising, risingRecord, MergedHitTime.riseFields]

/-- A falling edge moves the record of its key, completed, from the map to the end of the output (R164). -/
theorem GARegs.timesOf.fall {board : BoardId} {tag : Option GtsTag} {seen : List Instr} {w : Instr} {r : GARegs}
    {e : HitTimeEntry} {m : MergedHitTime} (hr : r.timesOf seen) (he : hitTimeEntry board tag w = some e)
    (hedge : e.edge ≠ 0#1) (hfind : KeyMap.find (timeKey e.channelId e.hitId) r.timeMap = some m) :
    GARegs.timesOf (seen ++ [w])
      { r with
        timeMap := KeyMap.erase (timeKey e.channelId e.hitId) r.timeMap, timeOut := r.timeOut ++ [m.complete e] } := by
  obtain ⟨hrising, hfalling⟩ := edges_of_hitTimeEntry he
  rw [if_neg hedge] at hrising hfalling
  refine ⟨KeyMap.wf_erase _ _ hr.mapWf, fun x hx => hr.keyed x (KeyMap.mem_erase _ _ hx),
    fun x hx => hr.risingOnly x (KeyMap.mem_erase _ _ hx), ?_, ?_⟩
  · have hvalues : (KeyMap.values r.timeMap).Perm
        (m :: KeyMap.values (KeyMap.erase (timeKey e.channelId e.hitId) r.timeMap)) :=
      (KeyMap.perm_erase hfind).map Prod.snd
    have hmoved := ((hvalues.append_left r.timeOut).map MergedHitTime.riseFields).symm.trans hr.rises
    simpa [hrising, MergedHitTime.complete, MergedHitTime.riseFields] using hmoved
  · obtain ⟨hchannel, hhit⟩ := timeKey_inj.mp (hr.keyed _ (KeyMap.mem_of_find _ _ hfind))
    simp [hr.falls, hfalling, MergedHitTime.complete, MergedHitTime.fallFields, hchannel, hhit]

/-- The first pass of a run. -/
theorem timeWalk_timesOf {board : BoardId} {tag : Option GtsTag} {block : List Instr} {r : GARegs}
    (h : walk (gaTimeVisit board tag) block GARegs.start = .ok r) : r.timesOf block := by
  refine walk_induction GARegs.timesOf (seen := []) (fun seen w r r' hvisit hr => ?_) h start_timesOf
  rcases gaTimeVisit_cases hvisit with ⟨hskip, rfl⟩ | ⟨e, he, hedge, hfind, rfl⟩ | ⟨e, m, he, hedge, hfind, rfl⟩
  · exact hr.skip hskip
  · exact hr.rise he hedge hfind
  · exact hr.fall he hedge hfind

/-- The numbers of two keys are ordered as the keys are, by channel first (R168). -/
theorem timeKey_lt {c c' : ChannelId} {h h' : HitId} (hlt : timeKey c h < timeKey c' h') :
    c.toNat < c'.toNat ∨ (c = c' ∧ h.toNat < h'.toNat) := by
  unfold timeKey at hlt
  have := h.isLt
  have := h'.isLt
  by_cases hc : c.toNat < c'.toNat
  · exact .inl hc
  · exact .inr ⟨BitVec.eq_of_toNat_eq (by omega), by omega⟩

/-- The records of the map, read in ascending order of their numbers, stand in key order (R168). -/
theorem GARegs.timesOf.values_ordered {seen : List Instr} {r : GARegs} (hr : r.timesOf seen) :
    (KeyMap.values r.timeMap).Pairwise fun a b => a.channelId.toNat < b.channelId.toNat ∨
      (a.channelId = b.channelId ∧ a.hitId.toNat < b.hitId.toNat) := by
  have hkeys := List.pairwise_map.mp ((KeyMap.wf_iff _).mp hr.mapWf)
  refine List.pairwise_map.mpr (hkeys.imp_of_mem fun {x y} hx hy hlt => timeKey_lt ?_)
  rwa [hr.keyed x hx, hr.keyed y hy] at hlt

/-- Settles O34: the completed records are the output of the first pass, the rising-only ones those left in its map. -/
theorem oneTimeRecordPerRisingEdge : Obligations.OneTimeRecordPerRisingEdge := by
  intro board tag block timeOut ampOut h
  obtain ⟨r, _, hwalk, _, _, rfl, _⟩ := gtsAssemble_ok h
  have hr := timeWalk_timesOf hwalk
  refine ⟨?_, hr.rises, _, _, rfl, hr.falls, fun m hm => ?_, hr.values_ordered⟩
  · have hlength := hr.rises.length_eq
    rw [List.length_map, List.length_filterMap_eq_countP] at hlength
    rw [hlength]
    exact List.countP_congr fun w _ => by rw [isRisingEdge_eq_isSome]
  · obtain ⟨x, hx, rfl⟩ := List.mem_map.mp hm
    exact hr.risingOnly x hx

/-! ### The amplitude records -/

/-- What stands in the amplitude map after the words `seen`: a record for each channel that has a sample among them, under
the number of its channel. -/
structure GARegs.ampsOf (seen : List Instr) (r : GARegs) : Prop where
  mapWf : KeyMap.wf r.ampMap = true
  keyed : ∀ x ∈ r.ampMap, x.1 = x.2.channelId.toNat
  channels : ∀ c : ChannelId, c.toNat ∈ r.ampMap.map Prod.fst ↔ c ∈ seen.filterMap amplitudeChannel

theorem amplitudeChannel_none {w : Instr} (h : isHitAmplitude w = false) : amplitudeChannel w = none := by
  cases w with
  | hitAmplitude => cases h
  | _ => rfl

/-- The record that a sample is written into is the one of its channel (R166). -/
theorem GARegs.ampsOf.ampRecord_channelId {seen : List Instr} {r : GARegs} (hr : r.ampsOf seen) (c : ChannelId) :
    (ampRecord c r).channelId = c := by
  unfold ampRecord
  cases hfind : KeyMap.find c.toNat r.ampMap with
  | none => rfl
  | some m => exact (BitVec.eq_of_toNat_eq (hr.keyed _ (KeyMap.mem_of_find _ _ hfind))).symm

theorem GARegs.ampsOf.skip {seen : List Instr} {w : Instr} {r : GARegs} (hr : r.ampsOf seen)
    (h : isHitAmplitude w = false) : r.ampsOf (seen ++ [w]) :=
  { hr with channels := by simpa [amplitudeChannel_none h] using hr.channels }

/-- A record written under the number of its channel adds that channel (R166). -/
theorem GARegs.ampsOf.write {seen : List Instr} {w : Instr} {r : GARegs} {c : ChannelId} {m : MergedHitAmplitude}
    (hr : r.ampsOf seen) (hw : amplitudeChannel w = some c) (hm : m.channelId = c) :
    GARegs.ampsOf (seen ++ [w]) { r with ampMap := KeyMap.insert c.toNat m r.ampMap } := by
  refine ⟨KeyMap.wf_insert _ _ _ hr.mapWf, fun x hx => ?_, fun c' => ?_⟩
  · rcases KeyMap.mem_insert _ _ _ hx with rfl | hx
    · exact congrArg BitVec.toNat hm.symm
    · exact hr.keyed x hx
  · rw [KeyMap.mem_keys_insert, hr.channels, BitVec.toNat_inj, List.filterMap_append, List.mem_append, or_comm]
    simp [hw]

/-- The second pass of a run. -/
theorem ampWalk_ampsOf {board : BoardId} {tag : Option GtsTag} {block : List Instr} {r r' : GARegs}
    (h : walk (gaAmpVisit board tag) block r = .ok r') (hstart : r.ampMap = []) : r'.ampsOf block := by
  refine walk_induction GARegs.ampsOf (seen := []) (fun seen w r r' hvisit hr => ?_) h
    ⟨by rw [hstart]; rfl, by simp [hstart], by simp [hstart]⟩
  rcases gaAmpVisit_cases hvisit with ⟨hskip, rfl⟩ | ⟨e, he, _, _, rfl⟩ | ⟨e, he, _, _, rfl⟩
  · exact hr.skip hskip
  all_goals
    obtain ⟨_, _, hchannel⟩ := hitAmplitudeEntry_operands he
    have hrecord := hr.ampRecord_channelId e.channelId
    exact hr.write hchannel hrecord

/-- Settles O35: the amplitude records are those of the second pass's map, in the order of its keys. -/
theorem oneAmplitudeRecordPerChannel : Obligations.OneAmplitudeRecordPerChannel := by
  intro board tag block timeOut ampOut h
  obtain ⟨r, r', _, hwalk, hstart, _, rfl⟩ := gtsAssemble_ok h
  have hr := ampWalk_ampsOf hwalk hstart
  have hkeys : (KeyMap.values r'.ampMap).map (fun m => m.channelId.toNat) = r'.ampMap.map Prod.fst := by
    rw [KeyMap.values, List.map_map]
    exact List.map_congr_left fun x hx => (hr.keyed x hx).symm
  refine ⟨hkeys ▸ (KeyMap.wf_iff _).mp hr.mapWf, fun c => ?_⟩
  calc c ∈ (KeyMap.values r'.ampMap).map MergedHitAmplitude.channelId
    _ ↔ c.toNat ∈ (KeyMap.values r'.ampMap).map fun m => m.channelId.toNat := by simp [BitVec.toNat_inj]
    _ ↔ c ∈ block.filterMap amplitudeChannel := by rw [hkeys, hr.channels]
    _ ↔ ∃ w ∈ block, amplitudeChannel w = some c := List.mem_filterMap

end Sys2Proof.Machine
end

section
/-! PROOFS. What each kind of word does in the walk of the FEB Assembler: one equation for each outcome (R195 to R208). -/

namespace Sys2Proof.Machine

/-- An unset tag, and a tag with other low bits, match nothing (R197). -/
theorem tagMatches_eq_false_iff (t : TagId) (tag : Option GtsTag) :
    tagMatches t tag = false ↔ ∀ g, tag = some g → t.toNat ≠ g.toNat % 4 := by
  rw [← Bool.not_eq_true, tagMatches_iff]
  simp only [not_exists, not_and, ne_eq]

theorem faRoute_current {t : TagId} {r : FARegs} (w : Instr) (hcurrent : tagMatches t r.currentTag = true) :
    faRoute w t r = .ok { r with currentWords := append r.currentWords w } := if_pos hcurrent

theorem faRoute_previous {t : TagId} {r : FARegs} (w : Instr) (hcurrent : tagMatches t r.currentTag = false)
    (hprevious : tagMatches t r.previousTag = true) :
    faRoute w t r = .ok { r with previousWords := append r.previousWords w } := by
  rw [faRoute, if_neg (by simp [hcurrent]), if_pos hprevious]

theorem faRoute_mismatch {t : TagId} {r : FARegs} (w : Instr) (hcurrent : tagMatches t r.currentTag = false)
    (hprevious : tagMatches t r.previousTag = false) :
    faRoute w t r = .error (.hitTagMismatch t r.currentTag r.previousTag) := by
  rw [faRoute, if_neg (by simp [hcurrent]), if_neg (by simp [hprevious])]

/-- Settles O39: the two tag comparisons of the routing are those of the statement. -/
theorem hitIsRoutedByTagBits : Obligations.HitIsRoutedByTagBits := by
  intro w t r hw
  rw [faVisit_hit hw, ← tagMatches_iff, ← tagMatches_iff, ← tagMatches_eq_false_iff, ← tagMatches_eq_false_iff]
  exact ⟨faRoute_current w, faRoute_previous w, faRoute_mismatch w⟩

/-- The registers with the outputs of a GTS Assembler run appended (R204). -/
def FARegs.addRecords (r : FARegs) (out : List MergedHitTime × List MergedHitAmplitude) : FARegs :=
  { r with hitTimes := r.hitTimes ++ out.1, hitAmplitudes := r.hitAmplitudes ++ out.2 }

theorem faFlush_nil (tag : Option GtsTag) (r : FARegs) : faFlush tag [] r = .ok r := rfl

/-- A flush is a GTS Assembler run, also of an empty window, whose run gives no record (R172, R204). -/
theorem faFlush_eq (tag : Option GtsTag) (ws : List Instr) (r : FARegs) :
    faFlush tag ws r = (gtsAssemble r.boardId tag ws).map r.addRecords := by
  by_cases hnil : ws = []
  · have hempty : gtsAssemble r.boardId tag ws = .ok ([], []) :=
      blockWithoutHitsIsEmpty r.boardId tag ws fun w hw => absurd (hnil ▸ hw) List.not_mem_nil
    rw [hempty, hnil, faFlush_nil]
    simp [Except.map, FARegs.addRecords]
  · rw [faFlush, if_neg hnil]
    cases gtsAssemble r.boardId tag ws <;> rfl

/-- A GTSTrailer2 on an empty current window fails (R203). -/
theorem faGtsTrailer2_of_empty (w : Instr) (time : BitVec 20) {r : FARegs} (hwords : r.currentWords = []) :
    faGtsTrailer2 w time r = .error .trailerWithoutHeader := if_pos hwords

/-- A GTSTrailer2 on a window with words and a tag: record, flush, shift (R203). -/
theorem faGtsTrailer2_of_tagged (w : Instr) (time : BitVec 20) {r : FARegs} {g : GtsTag} (hwords : r.currentWords ≠ [])
    (htag : r.currentTag = some g) :
    faGtsTrailer2 w time r =
      (faFlush r.previousTag r.previousWords
        { r with currentWords := append r.currentWords w, gtsTimeMap := r.gtsTimeMap ++ [(g, time)] }).map faShift := by
  rw [faGtsTrailer2, if_neg hwords, faRecordTime_some (r := { r with currentWords := append r.currentWords w }) htag]
  generalize faFlush _ _ _ = flushed
  cases flushed <;> rfl

/-- Settles O38: the rule of a GTSHeader is this equation. -/
theorem gtsHeaderSetsCurrentTag : Obligations.GtsHeaderSetsCurrentTag := fun _ _ => rfl

/-- Settles O40: the rule of a GTSTrailer1 is a case split on this comparison. -/
theorem trailer1ChecksTheTag : Obligations.Trailer1ChecksTheTag := fun _ _ => ⟨fun h => if_pos h, fun h => if_neg h⟩

/-- Settles O41: what stands in the previous window decides which flush the GTSTrailer2 makes. -/
theorem trailer2ClosesInterval : Obligations.Trailer2ClosesInterval := by
  intro d o f time u r
  refine ⟨faGtsTrailer2_of_empty _ time, fun g hwords htag => ?_⟩
  have hvisit : faVisit (.gtsTrailer2 d o f time u) r = _ := faGtsTrailer2_of_tagged _ time hwords htag
  rw [hvisit]
  refine ⟨fun hprevious => ?_, fun timeOut ampOut _ hrun => ?_, fun e _ hrun => ?_⟩
  · rw [hprevious, faFlush_nil, ← htag]
    rfl
  · rw [faFlush_eq, hrun, ← htag]
    rfl
  · rw [faFlush_eq, hrun]
    rfl

/-- Settles O42: each of these kinds has the rule of no state change. -/
theorem unroutedWordsChangeNothing : Obligations.UnroutedWordsChangeNothing := fun _ =>
  ⟨fun _ => rfl, fun _ _ _ _ => rfl, fun _ _ _ => rfl, fun _ _ _ => rfl, fun _ _ _ _ => rfl, fun _ _ _ => rfl,
    fun _ => rfl, fun _ => rfl, fun _ _ _ _ _ _ _ => rfl, fun _ _ _ => rfl, fun _ _ _ _ => rfl⟩

end Sys2Proof.Machine
end

section
/-! PROOFS. The contract of a FEB slice, and that no step raises a contract error of an inner assembler (R217, R234,
R304). -/

namespace Sys2Proof.Machine

/-! ### Which errors a FEB packet can raise -/

/-- The contract errors of the FEB Assembler and of the OCB Assembler (R217, R234). -/
def isContractError : FatalError → Bool
  | .febPacketEmpty => true
  | .febEnvelopeViolation => true
  | .ocbEnvelopeViolation => true
  | _ => false

theorem isContractError_eq_false_iff (e : FatalError) :
    isContractError e = false ↔ e ≠ .febPacketEmpty ∧ e ≠ .febEnvelopeViolation ∧ e ≠ .ocbEnvelopeViolation := by
  cases e <;> simp [isContractError]

/-- The errors of the Stream Driver's own rules are none of them. -/
theorem not_contractError_of_driverError {e : FatalError} (h : isDriverError e = true) : isContractError e = false := by
  cases e with
  | invalidWord | nestedOcbHeader | strayWord | bufferOverflow => rfl
  | _ => cases h

theorem gtsAssemble_error_not_contract {board : BoardId} {tag : Option GtsTag} {block : List Instr} {e : FatalError}
    (h : gtsAssemble board tag block = .error e) : isContractError e = false := by
  obtain ⟨w, _, r, htime | hamp⟩ := gtsAssemble_error h
  · obtain ⟨c, k, rfl | rfl⟩ := gaTimeVisit_error htime <;> rfl
  · obtain ⟨c, rfl | rfl⟩ := gaAmpVisit_error hamp <;> rfl

theorem faVisit_error_not_contract {w : Instr} {r : FARegs} {e : FatalError} (h : faVisit w r = .error e) :
    isContractError e = false := by
  rcases faVisit_error h with ⟨t, rfl⟩ | ⟨g, rfl⟩ | rfl | ⟨board, tag, ws, hrun⟩
  · rfl
  · rfl
  · rfl
  · exact gtsAssemble_error_not_contract hrun

/-- How the end of a slice can fail: by one of its two flushes (R211). -/
theorem faEnd_error {r : FARegs} {e : FatalError} (h : faEnd r = .error e) :
    ∃ board tag ws, gtsAssemble board tag ws = .error e := by
  unfold faEnd at h
  split at h
  · rename_i hflush
    cases h
    exact ⟨_, _, _, faFlush_error hflush⟩
  · exact ⟨_, _, _, faFlush_error h⟩

theorem febRun_error_not_contract {board : BoardId} {status : TrailerStatus} {S : List Instr} {e : FatalError}
    (h : febRun board status S = .error e) : isContractError e = false := by
  unfold febRun at h
  split at h
  · rename_i hwalk
    cases h
    obtain ⟨w, _, r, _, hvisit⟩ := walk_error (fun _ => True) (fun _ _ _ _ _ _ => trivial) hwalk trivial
    exact faVisit_error_not_contract hvisit
  · obtain ⟨_, _, _, hrun⟩ := faEnd_error h
    exact gtsAssemble_error_not_contract hrun

/-! ### The contract of a slice -/

/-- A slice from a GateHeader to a FEBDataPacketTrailer is run (R190, R217). -/
theorem febAssemble_of_contract {S : List Instr} {board : BoardId} {status : TrailerStatus}
    (hhead : S.head?.bind gateHeaderBoard = some board) (hlast : S.getLast?.bind trailerStatus = some status) :
    febAssemble S = (febRun board status S).map FARegs.packet := by
  have hne : S ≠ [] := by rintro rfl; cases hhead
  simp only [febAssemble, if_neg hne, hhead, hlast]
  cases febRun board status S <;> rfl

/-- Any other non-empty slice violates the contract (R217). -/
theorem febAssemble_of_violation {S : List Instr} (hne : S ≠ [])
    (h : S.head?.bind gateHeaderBoard = none ∨ S.getLast?.bind trailerStatus = none) :
    febAssemble S = .error .febEnvelopeViolation := by
  rw [febAssemble, if_neg hne]
  rcases h with h | h
  · rw [h]
  · rw [h]
    cases S.head?.bind gateHeaderBoard <;> rfl

/-- A slice that meets the contract raises no contract error. -/
theorem febAssemble_error_not_contract {S : List Instr} {board : BoardId} {status : TrailerStatus} {e : FatalError}
    (hhead : S.head?.bind gateHeaderBoard = some board) (hlast : S.getLast?.bind trailerStatus = some status)
    (h : febAssemble S = .error e) : isContractError e = false := by
  rw [febAssemble_of_contract hhead hlast] at h
  cases hrun : febRun board status S with
  | error e' =>
    rw [hrun] at h
    cases h
    exact febRun_error_not_contract hrun
  | ok r =>
    rw [hrun] at h
    cases h

/-- The first and the last word of a slice that begins with a GateHeader and ends with a FEBDataPacketTrailer. -/
theorem slice_ends {a z : Instr} {board : BoardId} {status : TrailerStatus} (mid : List Instr)
    (ha : gateHeaderBoard a = some board) (hz : trailerStatus z = some status) :
    (a :: (mid ++ [z])).head?.bind gateHeaderBoard = some board ∧
      (a :: (mid ++ [z])).getLast?.bind trailerStatus = some status := by
  refine ⟨ha, ?_⟩
  rw [← List.cons_append, List.getLast?_concat]
  exact hz

/-- Settles O44: an empty slice, one that violates the contract, one that meets it, and the shortest that does. -/
theorem sliceContractIsChecked : Obligations.SliceContractIsChecked := by
  refine ⟨rfl, fun S => febAssemble_of_violation, fun S b z hhead hlast => ?_, fun a z b st ha hz => ?_⟩
  · exact ⟨fun h => (nomatch febAssemble_error_not_contract hhead hlast h),
      fun h => (nomatch febAssemble_error_not_contract hhead hlast h)⟩
  · obtain ⟨hhead, hlast⟩ := slice_ends [] ha hz
    exact febAssemble_of_contract hhead hlast

/-! ### The contract errors in the composed block -/

/-- The slice that a FEBDataPacketTrailer cuts begins with the recorded GateHeader and ends with itself, so its assembly
raises no contract error (R250). -/
theorem febAssemble_slice_error_not_contract {B : List Instr} {w : Instr} {r : OARegs} {g : Nat} {e : FatalError}
    (hr : r.runWf B) (hg : r.ghi = some g) (hw : memRead B r.i = some w) (hstatus : trailerStatus w ≠ none)
    (h : febAssemble (slice B g r.i) = .error e) : isContractError e = false := by
  obtain ⟨hghi, _, _⟩ := hr
  obtain ⟨hlt, hboard⟩ := hghi g hg
  obtain ⟨status, hstatus⟩ := Option.ne_none_iff_exists'.mp hstatus
  have hhead : (slice B g r.i).head?.bind gateHeaderBoard = some r.febBoard := by rw [slice_head hlt, hboard]
  have hlast : (slice B g r.i).getLast?.bind trailerStatus = some status := by rw [slice_last hlt hw]; exact hstatus
  exact febAssemble_error_not_contract hhead hlast h

theorem oaVisit_error_not_contract {B : List Instr} {w : Instr} {r : OARegs} {e : FatalError} (hr : r.runWf B)
    (hw : memRead B r.i = some w) (h : oaVisit B w r = .error e) : isContractError e = false := by
  obtain ⟨hstatus, rfl | ⟨g, hg, hassemble⟩⟩ := oaVisit_error h
  · rfl
  · exact febAssemble_slice_error_not_contract hr hg hw hstatus hassemble

/-- A canonical buffer and its trailer are an envelope, and its walk raises no contract error (R230, R234). -/
theorem ocbAssemble_error_not_contract {buf : List Instr} {gateType : BitVec 3} {gateTag : BitVec 2} {errors : BitVec 16}
    {unused : BitVec 7} {e : FatalError} (hbuf : Memory.wf true buf = true)
    (h : ocbAssemble (append buf (.ocbPacketTrailer gateType gateTag errors unused)) = .error e) :
    isContractError e = false := by
  obtain ⟨hType, hTag, number, mid, rfl, hmid⟩ := memory_wf_inside hbuf
  rw [append, List.cons_append, ocbAssemble, ocbRun_envelope] at h
  split at h
  · rename_i hrun
    cases h
    split at hrun
    · obtain ⟨_, hfails⟩ := oaWalk_keeps (OARegs.runWf _) mid _ (fun k hk => memRead_interior _ _ hk)
        (fun w hw _ _ hread hv => oaVisit_keeps_runWf hread (List.all_eq_true.mp hmid w hw) hv) (oaBegin_runWf _ _ _ _ _)
      obtain ⟨w, _, r, hread, hr, hvisit⟩ := hfails e hrun
      exact oaVisit_error_not_contract hr hread hvisit
    · cases hrun
      rfl
  · cases h

/-- The fault that an instruction sets in a state with a canonical buffer is no contract error. -/
theorem exec_fault_not_contract {i : Instr} {s t : State} {record : FaultRecord}
    (hbuf : Memory.wf s.insideOcb s.buf = true) (hf : s.fault = none) (h : exec i s = .next t)
    (ht : t.fault = some record) : isContractError record.error = false := by
  rcases exec_cases i s hf with ⟨_, _, _, he⟩ | ⟨_, _, _, he⟩ | ⟨_, _, _, ev, ws, _, he⟩ | ⟨_, _, he⟩ |
    ⟨e, he, herror⟩ <;> cases he.symm.trans h
  case inr.inr.inr.inr =>
    cases ht
    rcases herror with hdriver | ⟨hinside, ⟨a, b, c, d, rfl⟩, hassemble⟩
    · exact not_contractError_of_driverError hdriver
    · exact ocbAssemble_error_not_contract (hinside ▸ hbuf) hassemble
  all_goals cases hf.symm.trans ht

/-- Settles O27: a step sets a fault record by a truncated stream or by an executed word, and the buffer that a trailer
closes is an envelope whose slices meet their contract. -/
theorem contractErrorsAreUnreachable : Obligations.ContractErrorsAreUnreachable := by
  intro s t record hbuf hf h ht
  rw [← isContractError_eq_false_iff]
  rcases step_cases h with rfl | rfl | rfl | ⟨_, _, _, _, hexec⟩
  · cases hf.symm.trans ht
  · cases hf.symm.trans ht
  · cases ht
    rfl
  · exact exec_fault_not_contract hbuf hf hexec ht

end Sys2Proof.Machine
end

section
/-! PROOFS. What the packet of a slice holds: the captured words, the times of the intervals, the rising edges, and the
windows open at the end (R191 to R193, R211 to R216). -/

namespace Sys2Proof.Machine

/-! ### The captured words -/

/-- The end of a slice keeps the captured registers and the GTS-time map (R211). -/
theorem faEnd_keeps {r r' : FARegs} (h : faEnd r = .ok r') :
    r'.boardId = r.boardId ∧ r'.status = r.status ∧ r'.holdTime = r.holdTime ∧ r'.gtsTimeMap = r.gtsTimeMap := by
  obtain ⟨r1, h1, h2⟩ := faEnd_ok h
  obtain ⟨hboard1, hstatus1, hhold1, hmap1, _⟩ := faFlush_keeps h1
  obtain ⟨hboard2, hstatus2, hhold2, hmap2, _⟩ := faFlush_keeps h2
  exact ⟨hboard2.trans hboard1, hstatus2.trans hstatus1, hhold2.trans hhold1, hmap2.trans hmap1⟩

/-- A packet has the values captured when its walk began (R191 to R193, R214). -/
theorem febAssemble_captured {S : List Instr} {p : FEBPacket} (h : febAssemble S = .ok p) :
    S.head?.bind gateHeaderBoard = some p.boardId ∧ S.getLast?.bind trailerStatus = some p.status ∧
      p.holdTime = capturedHoldTime S := by
  obtain ⟨board, status, r, r', hboard, hstatus, hwalk, hend, rfl⟩ := febAssemble_ok h
  obtain ⟨hrboard, hrstatus, hrhold⟩ :
      r.boardId = board ∧ r.status = status ∧ r.holdTime = capturedHoldTime S := by
    refine walk_keeps (fun x => x.boardId = board ∧ x.status = status ∧ x.holdTime = capturedHoldTime S) ?_ hwalk
      ⟨rfl, rfl, rfl⟩
    rintro _ _ a b hvisit ⟨hb, hs, hh⟩
    obtain ⟨hb', hs', hh'⟩ := faVisit_captured hvisit
    exact ⟨hb'.trans hb, hs'.trans hs, hh'.trans hh⟩
  obtain ⟨hb, hs, hh, _⟩ := faEnd_keeps hend
  refine ⟨?_, ?_, hh.trans hrhold⟩
  · rw [hboard, ← hrboard, ← hb]
    rfl
  · rw [hstatus, ← hrstatus, ← hs]
    rfl

/-- A HoldTime at index 1 of at least three words is captured (R192). -/
theorem capturedHoldTime_of_holdTime {S : List Instr} {b : BoardId} {k : BitVec 1} {time : BitVec 11} {u : BitVec 8}
    (hlen : 3 ≤ S.length) (h : memRead S 1 = some (.holdTime b k time u)) : capturedHoldTime S = some time := by
  rw [capturedHoldTime, if_pos hlen, h]
  rfl

/-- A word with a hold time is a HoldTime. -/
theorem holdTimeValue_eq_some {w : Instr} {time : BitVec 11} (h : holdTimeValue w = some time) :
    ∃ b k u, w = .holdTime b k time u := by
  cases w with
  | holdTime b k t u => cases h; exact ⟨b, k, u, rfl⟩
  | _ => cases h

/-- Without a HoldTime at index 1 none is captured (R192). -/
theorem capturedHoldTime_eq_none {S : List Instr} (h : ∀ b k time u, memRead S 1 ≠ some (.holdTime b k time u)) :
    capturedHoldTime S = none := by
  unfold capturedHoldTime
  split
  · refine Option.eq_none_iff_forall_ne_some.mpr fun time htime => ?_
    obtain ⟨w, hw, hvalue⟩ := Option.bind_eq_some_iff.mp htime
    obtain ⟨b, k, u, rfl⟩ := holdTimeValue_eq_some hvalue
    exact h b k time u hw
  · rfl

/-- Settles O45: the walk and the end of a slice leave what was captured before it. -/
theorem packetCapturesFirstSecondLast : Obligations.PacketCapturesFirstSecondLast := by
  intro S p h
  obtain ⟨hboard, hstatus, hhold⟩ := febAssemble_captured h
  exact ⟨hboard, hstatus, fun b k time u hlen hw => hhold.trans (capturedHoldTime_of_holdTime hlen hw),
    fun hnone => hhold.trans (capturedHoldTime_eq_none hnone)⟩

/-! ### The windows and the times -/

theorem faBegin_windowsWf (board : BoardId) (status : TrailerStatus) (S : List Instr) :
    (faBegin board status S).windowsWf :=
  ⟨fun h => absurd rfl h, fun h => absurd rfl h⟩

/-- Settles O43: both windows begin empty, and each word keeps the invariant. -/
theorem windowsWithWordsHaveTags : Obligations.WindowsWithWordsHaveTags :=
  ⟨faBegin_windowsWf, fun _ _ _ hr h => faVisit_keeps_windowsWf h hr⟩

/-- A hit word is no GTSTrailer2. -/
theorem trailer2Time_of_hit {w : Instr} {t : TagId} (h : hitTagId w = some t) : trailer2Time w = none := by
  cases w with
  | gtsTrailer2 => cases h
  | _ => rfl

/-- A word of the walk records the time of a GTSTrailer2 and no other: its window has words, hence a tag to record the
time under (R203, R212). -/
theorem faVisit_times {w : Instr} {r r' : FARegs} (h : faVisit w r = .ok r') (hr : r.windowsWf) :
    r'.gtsTimeMap.map Prod.snd = r.gtsTimeMap.map Prod.snd ++ [w].filterMap trailer2Time := by
  rcases faVisit_cases h with ⟨_, hnone, rfl⟩ | ⟨g, rfl, rfl⟩ | ⟨g, rfl, _, rfl⟩ | ⟨t, hhit, _, rfl⟩ |
    ⟨t, hhit, _, rfl⟩ | ⟨d, o, f, time, u, r1, rfl, hwords, hflush, rfl⟩
  · simp [hnone]
  · simp [trailer2Time]
  · simp [trailer2Time]
  · simp [trailer2Time_of_hit hhit]
  · simp [trailer2Time_of_hit hhit]
  · obtain ⟨g, htag⟩ := Option.isSome_iff_exists.mp (hr.1 hwords)
    rw [faRecordTime_some (r := { r with currentWords := append r.currentWords _ }) htag] at hflush
    obtain ⟨_, _, _, hmap, _⟩ := faFlush_keeps hflush
    simp [hmap, trailer2Time]

/-- Settles O46: the times recorded so far are those of the GTSTrailer2 words visited so far. -/
theorem timeMapFollowsTrailers : Obligations.TimeMapFollowsTrailers := by
  intro S p h
  obtain ⟨board, status, r, r', _, _, hwalk, hend, rfl⟩ := febAssemble_ok h
  obtain ⟨_, htimes⟩ : r.windowsWf ∧ r.gtsTimeMap.map Prod.snd = (innerWords S).filterMap trailer2Time := by
    refine walk_induction (fun seen x => x.windowsWf ∧ x.gtsTimeMap.map Prod.snd = seen.filterMap trailer2Time)
      (seen := []) ?_ hwalk ⟨faBegin_windowsWf board status S, rfl⟩
    rintro seen w x x' hvisit ⟨hwindows, hseen⟩
    exact ⟨faVisit_keeps_windowsWf hvisit hwindows, by rw [faVisit_times hvisit hwindows, hseen, List.filterMap_append]⟩
  obtain ⟨_, _, _, hmap⟩ := faEnd_keeps hend
  exact (congrArg (List.map Prod.snd) hmap).trans htimes

/-! ### The rising edges -/

/-- A word with no `tag_id` to route is no rising edge. -/
theorem not_risingEdge_of_hitTagId_none {w : Instr} (h : hitTagId w = none) : isRisingEdge w = false := by
  obtain ⟨hrising, _⟩ := edges_of_not_hitTime (not_hit_of_hitTagId_none h).1
  rw [isRisingEdge_eq_isSome, hrising]
  rfl

/-- A flush gives one time record for each rising edge of its window (R170, R204). -/
theorem faFlush_hitTimes_length {tag : Option GtsTag} {ws : List Instr} {r r' : FARegs} (h : faFlush tag ws r = .ok r') :
    r'.hitTimes.length = r.hitTimes.length + ws.countP isRisingEdge := by
  rcases faFlush_cases h with ⟨rfl, rfl⟩ | ⟨_, timeOut, ampOut, hrun, rfl⟩
  · rfl
  · obtain ⟨hlength, _⟩ := oneTimeRecordPerRisingEdge _ _ _ _ _ hrun
    rw [List.length_append, hlength]

/-- The rising edges that the registers account for: those of the assembled windows, one time record for each, and those
that wait in the two windows. -/
def FARegs.risingEdges (r : FARegs) : Nat :=
  r.hitTimes.length + r.previousWords.countP isRisingEdge + r.currentWords.countP isRisingEdge

theorem risingEdges_appendCurrent (w : Instr) (r : FARegs) :
    FARegs.risingEdges { r with currentWords := append r.currentWords w } =
      r.risingEdges + [w].countP isRisingEdge := by
  simp only [FARegs.risingEdges, append, List.countP_append]
  omega

theorem risingEdges_appendPrevious (w : Instr) (r : FARegs) :
    FARegs.risingEdges { r with previousWords := append r.previousWords w } =
      r.risingEdges + [w].countP isRisingEdge := by
  simp only [FARegs.risingEdges, append, List.countP_append]
  omega

/-- A word of the walk adds its own rising edge and loses none (R196, R203). -/
theorem faVisit_risingEdges {w : Instr} {r r' : FARegs} (h : faVisit w r = .ok r') :
    r'.risingEdges = r.risingEdges + [w].countP isRisingEdge := by
  rcases faVisit_cases h with ⟨hnone, _, rfl⟩ | ⟨g, _, rfl⟩ | ⟨g, _, _, rfl⟩ | ⟨t, _, _, rfl⟩ | ⟨t, _, _, rfl⟩ |
    ⟨d, o, f, time, u, r1, _, _, hflush, rfl⟩
  · simp [not_risingEdge_of_hitTagId_none hnone]
  · exact risingEdges_appendCurrent w r
  · exact risingEdges_appendCurrent w r
  · exact risingEdges_appendCurrent w r
  · exact risingEdges_appendPrevious w r
  · have hlength := faFlush_hitTimes_length hflush
    obtain ⟨_, _, _, _, hcurrent, _⟩ := faFlush_keeps hflush
    simp only [faRecordTime_hitTimes, faRecordTime_currentWords] at hlength hcurrent
    simp only [FARegs.risingEdges, faShift_hitTimes, faShift_previousWords, faShift_currentWords, hlength, hcurrent, append,
      List.countP_append, List.countP_nil]
    omega

/-- The end of a slice leaves no rising edge in the windows (R211). -/
theorem faEnd_hitTimes_length {r r' : FARegs} (h : faEnd r = .ok r') : r'.hitTimes.length = r.risingEdges := by
  obtain ⟨r1, h1, h2⟩ := faEnd_ok h
  rw [faFlush_hitTimes_length h2, faFlush_hitTimes_length h1, FARegs.risingEdges]

/-- Settles O47: the registers account for the rising edges visited so far, and the end assembles those that wait. -/
theorem packetKeepsEveryRisingEdge : Obligations.PacketKeepsEveryRisingEdge := by
  intro S p h
  obtain ⟨board, status, r, r', _, _, hwalk, hend, rfl⟩ := febAssemble_ok h
  have hedges : r.risingEdges = (innerWords S).countP isRisingEdge := by
    refine walk_induction (fun seen x => x.risingEdges = seen.countP isRisingEdge) (seen := []) ?_ hwalk rfl
    intro seen w x x' hvisit hseen
    rw [faVisit_risingEdges hvisit, hseen, List.countP_append]
  exact (faEnd_hitTimes_length hend).trans hedges

/-! ### The windows open at the end -/

/-- The end of a slice is two runs of the GTS Assembler (R211). -/
theorem faEnd_eq (r : FARegs) :
    faEnd r = (gtsAssemble r.boardId r.previousTag r.previousWords).bind fun out1 =>
      (gtsAssemble r.boardId r.currentTag r.currentWords).map (r.addRecords out1).addRecords := by
  rw [faEnd, faFlush_eq]
  cases gtsAssemble r.boardId r.previousTag r.previousWords with
  | error e => rfl
  | ok out1 => exact faFlush_eq r.currentTag r.currentWords (r.addRecords out1)

/-- A slice that meets the contract is assembled from where its walk ends (R190, R214). -/
theorem febAssemble_of_walk {S : List Instr} {board : BoardId} {status : TrailerStatus} {r : FARegs}
    (hhead : S.head?.bind gateHeaderBoard = some board) (hlast : S.getLast?.bind trailerStatus = some status)
    (hwalk : walk faVisit (innerWords S) (faBegin board status S) = .ok r) :
    febAssemble S = (faEnd r).map FARegs.packet := by
  rw [febAssemble_of_contract hhead hlast, febRun, hwalk]

/-- A walk over hit words of the current tag moves them all into the current window (R196). -/
theorem walk_hits_of_currentTag {g : GtsTag} {hits : List Instr}
    (hhits : ∀ w ∈ hits, ∃ t, hitTagId w = some t ∧ t.toNat = g.toNat % 4) {r : FARegs} (htag : r.currentTag = some g) :
    walk faVisit hits r = .ok { r with currentWords := r.currentWords ++ hits } := by
  induction hits generalizing r with
  | nil => simp
  | cons w hits ih =>
    obtain ⟨t, ht, hbits⟩ := hhits w List.mem_cons_self
    have hvisit : faVisit w r = .ok { r with currentWords := append r.currentWords w } := by
      rw [faVisit_hit ht]
      exact faRoute_current w ((tagMatches_iff _ _).mpr ⟨g, htag, hbits⟩)
    rw [walk_cons, hvisit]
    simpa [append, Except.bind] using
      ih (fun v hv => hhits v (List.mem_cons_of_mem _ hv)) (r := { r with currentWords := append r.currentWords w }) htag

/-- A slice of one interval that no GTSTrailer2 closes is assembled under the interval's tag (R213). -/
theorem febAssemble_unterminated {a z : Instr} {board : BoardId} {status : TrailerStatus} {g : GtsTag} {hits : List Instr}
    (ha : gateHeaderBoard a = some board) (hz : trailerStatus z = some status)
    (hhits : ∀ w ∈ hits, ∃ t, hitTagId w = some t ∧ t.toNat = g.toNat % 4) :
    febAssemble (a :: (.gtsHeader g :: hits ++ [z])) =
      (gtsAssemble board (some g) (.gtsHeader g :: hits)).map fun out =>
        { boardId := board, holdTime := none, gtsTimeMap := [], hitTimes := out.1, hitAmplitudes := out.2,
          status := status } := by
  obtain ⟨hhead, hlast⟩ := slice_ends (.gtsHeader g :: hits) ha hz
  have hhold : capturedHoldTime (a :: (.gtsHeader g :: hits ++ [z])) = none :=
    capturedHoldTime_eq_none fun b k time u h => by cases h
  have hwalk : walk faVisit (innerWords (a :: (.gtsHeader g :: hits ++ [z])))
        (faBegin board status (a :: (.gtsHeader g :: hits ++ [z]))) =
      .ok { faBegin board status (a :: (.gtsHeader g :: hits ++ [z])) with
        currentTag := some g, currentWords := .gtsHeader g :: hits } := by
    rw [innerWords_cons_append, walk_cons]
    exact walk_hits_of_currentTag hhits rfl
  rw [febAssemble_of_walk hhead hlast hwalk, faEnd_eq, faBegin, hhold]
  have hempty : gtsAssemble board none [] = .ok ([], []) := rfl
  simp only [FARegs.start, hempty]
  cases gtsAssemble board (some g) (.gtsHeader g :: hits) <;> rfl

/-- Settles O48: the end is two runs, an empty window's giving nothing; the packet is that of the registers after it. -/
theorem unterminatedIntervalIsKept : Obligations.UnterminatedIntervalIsKept := by
  refine ⟨fun r => ?_, fun S b st r hhead hlast hwalk => ⟨fun e he => ?_, fun r' hr' => ?_⟩,
    fun a z b st g hits ha hz hhits => ?_⟩
  · rw [faEnd_eq]
    cases gtsAssemble r.boardId r.previousTag r.previousWords with
    | error e => rfl
    | ok out1 => cases gtsAssemble r.boardId r.currentTag r.currentWords <;> rfl
  · rw [febAssemble_of_walk hhead hlast hwalk, he]
    rfl
  · rw [febAssemble_of_walk hhead hlast hwalk, hr']
    rfl
  · rw [febAssemble_unterminated ha hz hhits]
    cases gtsAssemble b (some g) (.gtsHeader g :: hits) <;> rfl

end Sys2Proof.Machine
end

section
/-! PROOFS. What each kind of word does in the walk of the OCB Assembler: one equation for each outcome (R240 to
R257). -/

namespace Sys2Proof.Machine

/-- A word whose rule succeeds moves the walk index (R230, R235). -/
theorem oaVisit_of_rule_ok {B : List Instr} {w : Instr} {r r' : OARegs} (h : oaRule B w r = .ok r') :
    oaVisit B w r = .ok { r' with i := r'.i + 1 } := by
  rw [oaVisit, h]

/-- A word whose rule fails ends the walk (R230). -/
theorem oaVisit_of_rule_error {B : List Instr} {w : Instr} {r : OARegs} {e : FatalError} (h : oaRule B w r = .error e) :
    oaVisit B w r = .error e := by
  rw [oaVisit, h]

/-! ### The words that are counted -/

/-- The GTS-level kinds have one rule: the GTS counter takes in a GTSHeader first, then the word is counted if the GTS
counter exceeds 2 (R243, R244). -/
theorem oaVisit_gtsLevel {w : Instr} (hlevel : isGtsLevel w = true) (B : List Instr) (r : OARegs) :
    oaVisit B w r = .ok { r with
      gtsc := r.gtsc + [w].countP isGtsHeader
      fwc := if r.gtsc + [w].countP isGtsHeader > 2 then r.fwc + 1 else r.fwc
      i := r.i + 1 } := by
  have hvisit : ∀ r1 : OARegs, oaRule B w r = .ok r1.countIfEvent →
      oaVisit B w r = .ok { r1 with fwc := if r1.gtsc > 2 then r1.fwc + 1 else r1.fwc, i := r1.i + 1 } := by
    intro r1 hrule
    rw [oaVisit_of_rule_ok hrule, countIfEvent_eq]
  cases w with
  | gtsHeader => exact hvisit { r with gtsc := r.gtsc + 1 } rfl
  | hitTime | hitAmplitude | gtsTrailer1 | gtsTrailer2 => exact hvisit r rfl
  | _ => cases hlevel

/-- Settles O49: the three gate-level kinds count, and the five GTS-level kinds share the rule above. -/
theorem wordsAreCounted : Obligations.WordsAreCounted := fun B r =>
  ⟨fun _ _ _ => rfl, fun _ => rfl, fun _ _ _ _ => rfl, fun _ => oaVisit_gtsLevel rfl B r,
    fun _ => oaVisit_gtsLevel rfl B r, fun _ _ _ _ _ => oaVisit_gtsLevel rfl B r,
    fun _ _ _ _ _ _ => oaVisit_gtsLevel rfl B r, fun _ _ _ _ _ => oaVisit_gtsLevel rfl B r⟩

/-- Settles O55: the GTS counter never exceeds 2 on the way, so each word leaves the FEB-word counter. -/
theorem firstTwoIntervalsAreNotCounted : Obligations.FirstTwoIntervalsAreNotCounted := by
  intro B ws
  induction ws with
  | nil => exact fun r _ _ => rfl
  | cons w ws ih =>
    intro r hlevel hle
    have hsplit : (w :: ws).countP isGtsHeader = [w].countP isGtsHeader + ws.countP isGtsHeader :=
      List.countP_append (l₁ := [w])
    have hnot : ¬ r.gtsc + [w].countP isGtsHeader > 2 := by omega
    rw [walk_cons, oaVisit_gtsLevel (hlevel w List.mem_cons_self) B r, if_neg hnot]
    refine (ih _ (fun v hv => hlevel v (List.mem_cons_of_mem _ hv)) (by simp only; omega)).trans ?_
    simp only [hsplit, List.length_cons, Nat.add_assoc, Nat.add_comm 1 ws.length]

/-! ### The other words -/

/-- What the look-ahead of R240 sees. -/
theorem any_isGateHeaderType1_iff (next : Option Instr) :
    next.any isGateHeaderType1 = true ↔ ∃ b t u, next = some (.gateHeaderType1 b t u) := by
  constructor
  · intro h
    obtain ⟨w, rfl, hw⟩ := (Option.any_eq_true _ _).mp h
    cases w with
    | gateHeaderType1 b t u => exact ⟨b, t, u, rfl⟩
    | _ => cases hw
  · rintro ⟨b, t, u, rfl⟩
    rfl

theorem oaVisit_gateHeaderType0 (B : List Instr) (b : BoardId) (t : BitVec 3) (n : BitVec 16) (r : OARegs) :
    oaVisit B (.gateHeaderType0 b t n) r = .ok { r with
      fwc := if (memRead B (r.i + 1)).any isGateHeaderType1 then 1 else 0
      gtsc := 0, ghi := some r.i, febBoard := b, i := r.i + 1 } := rfl

/-- Settles O50: the look-ahead decides the counter. -/
theorem gateHeaderResetsCounters : Obligations.GateHeaderResetsCounters := by
  intro B r b t n
  rw [oaVisit_gateHeaderType0]
  refine ⟨fun hnext => ?_, fun hnext => ?_⟩
  · rw [if_pos ((any_isGateHeaderType1_iff _).mpr hnext)]
  · rw [if_neg fun h => ?_]
    obtain ⟨b', t', u, h⟩ := (any_isGateHeaderType1_iff _).mp h
    exact hnext b' t' u h

theorem oaEventDone_of_eq {c : BitVec 16} {r : OARegs} (h : c.toNat = r.fwc) : oaEventDone c r = r := if_pos h

theorem oaEventDone_of_ne {c : BitVec 16} {r : OARegs} (h : c.toNat ≠ r.fwc) :
    oaEventDone c r = r.warn (.wordCountMismatch r.i c.toNat r.fwc) := if_neg h

/-- Settles O51: the rule of an EventDone is a comparison. -/
theorem eventDoneCompares : Obligations.EventDoneCompares := by
  intro B r b n c
  have hvisit : oaVisit B (.eventDone b n c) r = .ok { oaEventDone c r with i := (oaEventDone c r).i + 1 } :=
    oaVisit_of_rule_ok rfl
  refine ⟨fun heq => ?_, fun hne => ?_⟩
  · rw [hvisit, oaEventDone_of_eq heq]
  · rw [hvisit, oaEventDone_of_ne hne]
    rfl

/-- Settles O53: each of these kinds has the rule of every other kind. -/
theorem unexpectedWordsWarn : Obligations.UnexpectedWordsWarn := fun _ _ =>
  ⟨fun _ _ _ _ => rfl, fun _ => rfl, fun _ => rfl, fun _ _ _ => rfl, fun _ _ _ _ => rfl⟩

/-! ### The FEBDataPacketTrailer -/

theorem oaPlace_invalidBoard (B : List Instr) (g : Nat) {r : OARegs} (hboard : Config.numFebsPerOcb ≤ r.febBoard.toNat) :
    oaPlace B g r = .ok (r.warn (.invalidBoardId r.i r.febBoard)) := if_pos hboard

theorem oaPlace_duplicate (B : List Instr) (g : Nat) {r : OARegs} (hboard : r.febBoard.toNat < Config.numFebsPerOcb)
    (hslot : r.event.slot r.febBoard.toNat ≠ none) :
    oaPlace B g r = .ok (r.warn (.duplicateFeb r.i r.febBoard)) := by
  rw [oaPlace, if_neg (Nat.not_le_of_lt hboard), if_pos (Option.isSome_iff_ne_none.mpr hslot)]

/-- A packet for an empty slot: the assembly of its slice decides (R250). -/
theorem oaPlace_empty (B : List Instr) (g : Nat) {r : OARegs} (hboard : r.febBoard.toNat < Config.numFebsPerOcb)
    (hslot : r.event.slot r.febBoard.toNat = none) :
    oaPlace B g r =
      (febAssemble (slice B g r.i)).map fun p => { r with event := r.event.fill r.febBoard.toNat p } := by
  rw [oaPlace, if_neg (Nat.not_le_of_lt hboard), if_neg (by simp [hslot])]
  cases febAssemble (slice B g r.i) <;> rfl

theorem oaFebTrailer_noHeader (B : List Instr) {r : OARegs} (hghi : r.ghi = none) :
    oaFebTrailer B r = .error (.febTrailerWithoutHeader r.i) := by
  rw [oaFebTrailer, hghi]

theorem oaFebTrailer_header (B : List Instr) {r : OARegs} {g : Nat} (hghi : r.ghi = some g) :
    oaFebTrailer B r = oaPlace B g r.count := by
  rw [oaFebTrailer, hghi]

/-- Settles O52: the tests of the rule in their order; the count comes before them and they do not read it. -/
theorem febTrailerFillsSlot : Obligations.FebTrailerFillsSlot := by
  intro B r b f1 f2 f3 f4 f5 n
  refine ⟨fun hghi => oaVisit_of_rule_error (oaFebTrailer_noHeader B hghi), fun g hghi => ?_⟩
  have hrule : oaRule B (.febDataPacketTrailer b f1 f2 f3 f4 f5 n) r = oaPlace B g r.count := oaFebTrailer_header B hghi
  refine ⟨fun hboard => ?_, fun hboard hslot => ?_, fun hboard hslot => ?_⟩
  · exact oaVisit_of_rule_ok (hrule.trans (oaPlace_invalidBoard B g hboard))
  · exact oaVisit_of_rule_ok (hrule.trans (oaPlace_duplicate B g hboard hslot))
  · have hassembled := hrule.trans (oaPlace_empty B g (r := r.count) hboard hslot)
    refine ⟨fun p hp => ?_, fun e he => ?_⟩
    · rw [OARegs.count_i, hp] at hassembled
      exact ⟨r.event.fill r.febBoard.toNat p, oaVisit_of_rule_ok hassembled, slot_fill_self _ _ p hboard,
        fun k hk => slot_fill_ne _ _ k p hk, rfl, rfl, rfl, rfl⟩
    · rw [OARegs.count_i, he] at hassembled
      exact oaVisit_of_rule_error hassembled

end Sys2Proof.Machine
end

section
/-! PROOFS. The envelope check of the OCB Assembler, and the envelope fields of its event (R231, R232, R234). -/

namespace Sys2Proof.Machine

/-- The four fields of an event that the envelope's header and trailer give (R231, R232). -/
def OCBEvent.envelopeFields (ev : OCBEvent) : BitVec 23 × BitVec 3 × BitVec 2 × BitVec 16 :=
  (ev.eventNumber, ev.gateType, ev.gateTag, ev.errors)

@[simp] theorem fill_envelopeFields (ev : OCBEvent) (b : Nat) (p : FEBPacket) :
    (ev.fill b p).envelopeFields = ev.envelopeFields := rfl

/-- No word of the walk writes an envelope field: it leaves the event or fills a slot of it (R240 to R257). -/
theorem oaVisit_keeps_envelopeFields {B : List Instr} {w : Instr} {r r' : OARegs} (h : oaVisit B w r = .ok r') :
    r'.event.envelopeFields = r.event.envelopeFields := by
  obtain ⟨_, ⟨_, _, _, _, _, _, hevent, _⟩ | ⟨hevent, _⟩ | ⟨_, _, _, _, _, _, _, hevent, _⟩⟩ := oaVisit_cases h
  · rw [hevent]
  · rw [hevent]
  · rw [hevent, fill_envelopeFields]

/-- The event of a run has the envelope fields it began with. -/
theorem ocbRun_envelopeFields {hType tType : BitVec 3} {hTag tTag : BitVec 2} {number : BitVec 23} {errors : BitVec 16}
    {unused : BitVec 7} {mid : List Instr} {r : OARegs}
    (h : ocbRun (.ocbPacketHeader hType hTag number :: (mid ++ [.ocbPacketTrailer tType tTag errors unused])) = .ok r) :
    r.event.envelopeFields = (number, hType, hTag, errors) := by
  rw [ocbRun_envelope] at h
  split at h
  · refine walk_keeps (fun x => x.event.envelopeFields = (number, hType, hTag, errors)) ?_ h rfl
    exact fun _ _ _ _ hvisit hfields => (oaVisit_keeps_envelopeFields hvisit).trans hfields
  · cases h

/-- A list that is no envelope violates the contract (R234). -/
theorem ocbRun_of_violation {B : List Instr}
    (h : (∀ hType hTag number, B.head? ≠ some (.ocbPacketHeader hType hTag number)) ∨
      ∀ tType tTag errors unused, B.getLast? ≠ some (.ocbPacketTrailer tType tTag errors unused)) :
    ocbRun B = .error .ocbEnvelopeViolation := by
  unfold ocbRun
  split
  · rename_i hhead hlast
    rcases h with h | h
    · exact absurd hhead (h _ _ _)
    · exact absurd hlast (h _ _ _ _)
  · rfl

/-- The result of the OCB Assembler is that of its run (R258). -/
theorem ocbAssemble_eq (B : List Instr) : ocbAssemble B = (ocbRun B).map fun r => (r.event, r.warnings) := by
  rw [ocbAssemble]
  cases ocbRun B <;> rfl

/-- Settles O54: the envelope check stands before the walk, and the walk keeps the envelope fields. -/
theorem envelopeIsCheckedFirst : Obligations.EnvelopeIsCheckedFirst := by
  refine ⟨fun hType tType hTag tTag number errors unused mid => ⟨fun hne => ?_, fun ev warnings h => ?_⟩,
    fun B h => ?_⟩
  · rw [ocbAssemble_eq, ocbRun_envelope, if_neg (not_and_or.mpr hne)]
    rfl
  · rw [ocbAssemble_eq] at h
    cases hrun : ocbRun (.ocbPacketHeader hType hTag number :: (mid ++ [.ocbPacketTrailer tType tTag errors unused])) with
    | error e => rw [hrun] at h; cases h
    | ok r =>
      rw [hrun] at h
      cases h
      have hfields := ocbRun_envelopeFields hrun
      simpa only [OCBEvent.envelopeFields, Prod.mk.injEq] using hfields
  · rw [ocbAssemble_eq, ocbRun_of_violation h]
    rfl

end Sys2Proof.Machine
end

section
/-! PROOFS. What each step can do to the registers that the host sees, and the steps that wait, end or are ignored
(R270, R271, R276, R277, R280, R307). -/

namespace Sys2Proof.Machine

/-- Settles O6: the dispatch of `step` on a word at the head of the queue. -/
theorem stepRunsDecodedInstruction : Obligations.StepRunsDecodedInstruction := fun _ _ _ => step_of_word

/-- Settles O7: the dispatch of `step` on the empty queue. -/
theorem waitingHoldsState : Obligations.WaitingHoldsState := fun _ => step_of_nil

/-- In the faulted state a step takes its item, if there is one, and nothing else changes (R277, R307). -/
theorem step_faulted {s : State} (hf : s.fault.isSome = true) : step s = .next s.consume := by
  cases hin : s.input with
  | nil =>
    have hheld : s.consume = s := by rw [State.consume, hin, List.tail_nil, ← hin]
    rw [step_of_nil hin, hheld]
  | cons item rest =>
    cases item with
    | word raw => rw [step_of_word hin, exec_faulted _ s hf]
    | endOfStream => rw [step_of_end hin, endStep, if_pos hf]

/-- Settles O8: the fault record is tested before the rule of any item. -/
theorem faultedBlockIgnoresItems : Obligations.FaultedBlockIgnoresItems :=
  fun _ hf => step_faulted (Option.isSome_iff_ne_none.mpr hf)

theorem endStep_inside {s : State} (hf : s.fault = none) (hin : s.insideOcb = true) :
    endStep s = .next (s.consume.raise (.truncatedStream s.buf.length)) := by
  simp [endStep, hf, hin]

theorem endStep_outside {s : State} (hout : s.insideOcb = false) : endStep s = .next s.consume := by
  simp [endStep, hout]

/-- The state after its item is taken, with the queue written out. -/
theorem consume_of_input {s : State} {item : InputItem} {rest : List InputItem} (h : s.input = item :: rest) :
    s.consume = { s with input := rest } := by
  rw [State.consume, h, List.tail_cons]

/-- Settles O9: the envelope flag decides. -/
theorem endOfStreamTruncates : Obligations.EndOfStreamTruncates := by
  intro s rest h hf
  rw [step_of_end h]
  refine ⟨endStep_inside hf, fun hout => ?_⟩
  rw [endStep_outside hout, consume_of_input h]

/-- Every instruction answers a next state, faulted or not (R270). -/
theorem exec_answers (i : Instr) (s : State) : ∃ t, exec i s = .next t := by
  cases hf : s.fault with
  | some record => exact ⟨_, exec_faulted i s (by simp [hf])⟩
  | none =>
    rcases exec_cases i s hf with ⟨_, _, _, he⟩ | ⟨_, _, _, he⟩ | ⟨_, _, _, _, _, _, he⟩ | ⟨_, _, he⟩ | ⟨_, he, _⟩ <;>
      exact ⟨_, he⟩

theorem endStep_answers (s : State) : ∃ t, endStep s = .next t := by
  rcases endStep_cases s with ⟨_, h⟩ | ⟨_, _, h⟩ <;> exact ⟨_, h⟩

theorem step_answers (s : State) : ∃ t, step s = .next t := by
  cases hin : s.input with
  | nil => exact ⟨s, step_of_nil hin⟩
  | cons item rest =>
    cases item with
    | word raw => exact step_of_word hin ▸ exec_answers _ s
    | endOfStream => exact step_of_end hin ▸ endStep_answers s

/-- An instruction keeps the parameters, and only the trailer of an envelope and a fatal error emit, one item each (R24,
R51). -/
theorem exec_params_out {i : Instr} {s t : State} (hf : s.fault = none) (h : exec i s = .next t) :
    t.params = s.params ∧ (t.out = s.out ∨ ∃ item, t.out = s.out ++ [item]) := by
  rcases exec_cases i s hf with ⟨_, _, _, he⟩ | ⟨_, _, _, he⟩ | ⟨_, _, _, ev, ws, _, he⟩ | ⟨_, _, he⟩ | ⟨e, he, _⟩ <;>
    cases he.symm.trans h
  case inr.inr.inl => exact ⟨rfl, .inr ⟨.event ev ws, rfl⟩⟩
  case inr.inr.inr.inr => exact ⟨rfl, .inr ⟨.fault { error := e, pos := s.pos }, rfl⟩⟩
  all_goals exact ⟨rfl, .inl rfl⟩

/-- Settles O10: a step holds the state, takes an item, finds the stream truncated or executes a word. -/
theorem everyStepAnswersNext : Obligations.EveryStepAnswersNext := by
  intro s
  obtain ⟨t, h⟩ := step_answers s
  refine ⟨t, h, ?_⟩
  rcases step_cases h with rfl | rfl | rfl | ⟨hf, _, _, _, he⟩
  · exact ⟨rfl, .inl rfl⟩
  · exact ⟨rfl, .inl rfl⟩
  · exact ⟨rfl, .inr ⟨_, rfl⟩⟩
  · exact exec_params_out hf he

/-- Settles O13: the fields of a raised error, and of a taken item. -/
theorem raiseWritesTheFaultRecord : Obligations.RaiseWritesTheFaultRecord := fun _ _ => rfl

theorem exec_raises {i : Instr} {s t : State} (hf : s.fault = none) (h : exec i s = .next t) (ht : t.fault ≠ none) :
    ∃ e, t = s.consume.raise e := by
  rcases exec_cases i s hf with ⟨_, _, _, he⟩ | ⟨_, _, _, he⟩ | ⟨_, _, _, _, _, _, he⟩ | ⟨_, _, he⟩ | ⟨e, he, _⟩ <;>
    cases he.symm.trans h
  case inr.inr.inr.inr => exact ⟨e, rfl⟩
  all_goals exact absurd hf ht

/-- The one way into the faulted state is `raise`, from the state with the item taken (R277). -/
theorem step_raises {s t : State} (hf : s.fault = none) (h : step s = .next t) (ht : t.fault ≠ none) :
    ∃ e, t = s.consume.raise e := by
  rcases step_cases h with rfl | rfl | rfl | ⟨_, _, _, _, hexec⟩
  · exact absurd hf ht
  · exact absurd hf ht
  · exact ⟨_, rfl⟩
  · exact exec_raises hf hexec ht

/-- Settles O12: the state is that of `raise`, and the step after it takes an item and nothing else. -/
theorem fatalErrorIsTaken : Obligations.FatalErrorIsTaken := by
  intro s t hf h ht
  obtain ⟨e, rfl⟩ := step_raises hf h ht
  refine ⟨e, rfl, rfl, rfl, rfl, rfl, fun u hu => ?_⟩
  cases (step_faulted (s := s.consume.raise e) rfl).symm.trans hu
  exact ⟨rfl, rfl, rfl, rfl, rfl⟩

end Sys2Proof.Machine
end

section
/-! PROOFS. What a word of each kind completes with in the Stream Driver: one equation for each outcome (R271 to
R275). -/

namespace Sys2Proof.Machine

/-- A buffer at its capacity has no room (R70). -/
theorem bufFull_of_atCapacity {s : State} (h : s.params.maxOcbWords = some s.buf.length) : s.bufFull = true := by
  simp [State.bufFull, h]

theorem hasRoom_of_unbounded {s : State} (h : s.params.maxOcbWords = none) : s.hasRoom :=
  fun _ hlimit => nomatch h.symm.trans hlimit

/-! ### Interior words -/

theorem sdInner_inside {s : State} (hin : s.insideOcb = true) (w : Instr) : sdInner w s = s.bufAppend w := if_pos hin

/-- An interior word inside an envelope with room: appended, the position advances, nothing else changes (R273,
R279). -/
theorem exec_interior_of_room {i : Instr} {s : State} (hi : i.interior = true) (hf : s.fault = none)
    (hin : s.insideOcb = true) (hroom : s.hasRoom) :
    exec i s = .next { s with input := s.input.tail, buf := s.buf ++ [i], pos := s.pos + 1 } := by
  rw [exec_interior i s hi]
  have hrule := (sdInner_inside (s := s.consume) hin i).trans
    (bufAppend_ok (s := s.consume) (bufFull_of_hasRoom hroom) i)
  exact wordStep_ok hf hrule

/-- An interior word inside an envelope that finds the buffer full (R70, R273). -/
theorem exec_interior_of_full {i : Instr} {s : State} (hi : i.interior = true) (hf : s.fault = none)
    (hin : s.insideOcb = true) (hfull : s.bufFull = true) : exec i s = .next (s.consume.raise .bufferOverflow) := by
  rw [exec_interior i s hi]
  exact wordStep_error hf ((sdInner_inside (s := s.consume) hin i).trans (bufAppend_full (s := s.consume) hfull i))

/-- Settles O14: five interior kinds. -/
theorem gateWordsAreBuffered : Obligations.GateWordsAreBuffered := fun _ hf hin hroom =>
  ⟨fun _ _ _ => exec_interior_of_room rfl hf hin hroom, fun _ _ _ => exec_interior_of_room rfl hf hin hroom,
    fun _ _ _ _ => exec_interior_of_room rfl hf hin hroom, fun _ => exec_interior_of_room rfl hf hin hroom,
    fun _ _ _ _ => exec_interior_of_room rfl hf hin hroom⟩

/-- Settles O15: five interior kinds. -/
theorem gtsLevelWordsAreBuffered : Obligations.GtsLevelWordsAreBuffered := fun _ hf hin hroom =>
  ⟨fun _ => exec_interior_of_room rfl hf hin hroom, fun _ _ _ _ _ _ => exec_interior_of_room rfl hf hin hroom,
    fun _ _ _ _ _ => exec_interior_of_room rfl hf hin hroom, fun _ => exec_interior_of_room rfl hf hin hroom,
    fun _ _ _ _ _ => exec_interior_of_room rfl hf hin hroom⟩

/-- Settles O16: the other four interior kinds. -/
theorem packetWordsAreBuffered : Obligations.PacketWordsAreBuffered := fun _ hf hin hroom =>
  ⟨fun _ _ _ => exec_interior_of_room rfl hf hin hroom, fun _ _ _ _ _ _ _ => exec_interior_of_room rfl hf hin hroom,
    fun _ => exec_interior_of_room rfl hf hin hroom, fun _ => exec_interior_of_room rfl hf hin hroom⟩

/-- Settles O17: the buffer after the step is an append to the one before it. -/
theorem interiorWordAppendsOrOverflows : Obligations.InteriorWordAppendsOrOverflows := by
  intro i s hi hf hin
  refine ⟨fun hroom => ?_, fun hcap => exec_interior_of_full hi hf hin (bufFull_of_atCapacity hcap)⟩
  exact ⟨_, exec_interior_of_room hi hf hin hroom, hf, hin, rfl, append_length s.buf i, memRead_append_length s.buf i,
    fun _ hk => memRead_append_of_lt s.buf i hk⟩

/-! ### The header -/

/-- A header outside an envelope is an append to the cleared buffer (R272). -/
theorem sdOpen_outside {s : State} (hout : s.insideOcb = false) (w : Instr) :
    sdOpen w s = State.bufAppend { s with buf := [], insideOcb := true } w := by
  rw [sdOpen, if_neg (by simp [hout])]

theorem sdOpen_inside {s : State} (hin : s.insideOcb = true) (w : Instr) : sdOpen w s = .error .nestedOcbHeader := by
  rw [sdOpen, if_pos hin]

/-- A cleared buffer has room for a word unless its capacity is 0 (R70). -/
theorem cleared_hasRoom {s : State} (hcap : s.params.maxOcbWords ≠ some 0) :
    State.hasRoom { s with buf := [], insideOcb := true } := by
  intro limit hlimit
  exact Nat.pos_of_ne_zero fun h0 => hcap (h0 ▸ hlimit)

/-- A header outside an envelope opens one, with the header alone in the buffer (R272). -/
theorem exec_header_outside {s : State} (hf : s.fault = none) (hout : s.insideOcb = false)
    (hcap : s.params.maxOcbWords ≠ some 0) (gateType : BitVec 3) (gateTag : BitVec 2) (eventNumber : BitVec 23) :
    exec (.ocbPacketHeader gateType gateTag eventNumber) s =
      .next { s with
        input := s.input.tail, buf := [.ocbPacketHeader gateType gateTag eventNumber], insideOcb := true,
        pos := s.pos + 1 } := by
  have hrule := (sdOpen_outside (s := s.consume) hout (.ocbPacketHeader gateType gateTag eventNumber)).trans
    (bufAppend_ok (bufFull_of_hasRoom (cleared_hasRoom (s := s.consume) hcap)) _)
  exact wordStep_ok hf hrule

/-- Settles O18: the flag and the capacity decide. -/
theorem headerOpensEnvelope : Obligations.HeaderOpensEnvelope := by
  intro s gateType gateTag eventNumber hf
  refine ⟨fun hout hcap => exec_header_outside hf hout hcap _ _ _, fun hout hcap => ?_, fun hin => ?_⟩
  · exact wordStep_error hf ((sdOpen_outside (s := s.consume) hout _).trans
      (bufAppend_full (bufFull_of_atCapacity hcap) _))
  · exact wordStep_error hf (sdOpen_inside (s := s.consume) hin _)

/-! ### The trailer -/

/-- A trailer inside an envelope with room: the OCB Assembler on the buffer and the trailer decides (R274). -/
theorem sdClose_of_room {s : State} (hin : s.insideOcb = true) (hroom : s.hasRoom) (w : Instr) :
    sdClose w s = (ocbAssemble (s.buf ++ [w])).map fun result =>
      State.closeEnvelope { s with buf := append s.buf w } result.1 result.2 := by
  rw [sdClose, if_pos hin, bufAppend_ok (bufFull_of_hasRoom hroom), append]
  dsimp only
  cases ocbAssemble (s.buf ++ [w]) <;> rfl

theorem sdClose_of_full {s : State} (hin : s.insideOcb = true) (hfull : s.bufFull = true) (w : Instr) :
    sdClose w s = .error .bufferOverflow := by
  rw [sdClose, if_pos hin, bufAppend_full hfull]

section
variable {s : State} {gateType : BitVec 3} {gateTag : BitVec 2} {errors : BitVec 16} {unused : BitVec 7}

/-- The trailer of an envelope that assembles: its event is emitted, flag and buffer are cleared (R274). -/
theorem exec_trailer_of_ok {ev : OCBEvent} {warnings : List Warning} (hf : s.fault = none) (hin : s.insideOcb = true)
    (hroom : s.hasRoom)
    (h : ocbAssemble (s.buf ++ [.ocbPacketTrailer gateType gateTag errors unused]) = .ok (ev, warnings)) :
    exec (.ocbPacketTrailer gateType gateTag errors unused) s =
      .next { s with
        input := s.input.tail, buf := [], insideOcb := false, pos := s.pos + 1,
        out := s.out ++ [.event ev warnings], oa := OARegs.start, fa := FARegs.start, ga := GARegs.start } := by
  have hrule := sdClose_of_room (s := s.consume) hin hroom (.ocbPacketTrailer gateType gateTag errors unused)
  rw [State.consume_buf, h] at hrule
  exact wordStep_ok hf hrule

/-- The trailer of an envelope that does not assemble: the error is taken (R274, R277). -/
theorem exec_trailer_of_error {e : FatalError} (hf : s.fault = none) (hin : s.insideOcb = true) (hroom : s.hasRoom)
    (h : ocbAssemble (s.buf ++ [.ocbPacketTrailer gateType gateTag errors unused]) = .error e) :
    exec (.ocbPacketTrailer gateType gateTag errors unused) s = .next (s.consume.raise e) := by
  have hrule := sdClose_of_room (s := s.consume) hin hroom (.ocbPacketTrailer gateType gateTag errors unused)
  rw [State.consume_buf, h] at hrule
  exact wordStep_error hf hrule

end

/-- Settles O19: the capacity test, then the result of the OCB Assembler. -/
theorem trailerClosesEnvelope : Obligations.TrailerClosesEnvelope := by
  intro s gateType gateTag errors unused hf hin
  refine ⟨fun hcap => ?_, fun hroom => ⟨fun ev warnings h => ?_, fun e h => ?_⟩⟩
  · exact wordStep_error hf (sdClose_of_full (s := s.consume) hin (bufFull_of_atCapacity hcap) _)
  · exact exec_trailer_of_ok hf hin hroom h
  · exact exec_trailer_of_error hf hin hroom h

/-! ### Words that no rule expects -/

/-- Settles O21: the rule of the reserved id is an error in every state. -/
theorem reservedWordIsFatal : Obligations.ReservedWordIsFatal :=
  fun _ _ hf => wordStep_error (rule := sdInvalid 0xA#4) hf rfl

/-- The step of a word applies its rule to one state only, that with the word taken (R270). -/
theorem wordStep_congr {rule rule' : State → Except FatalError State} {s : State}
    (h : rule s.consume = rule' s.consume) : wordStep rule s = wordStep rule' s := by
  simp only [wordStep, h]

/-- Outside an envelope every known kind but OCBPacketHeader is a stray word: an interior kind, and the trailer (R273 to
R275). -/
theorem exec_stray {i : Instr} {s : State} (hknown : i.wellFormed = true)
    (hheader : ∀ gateType gateTag eventNumber, i ≠ .ocbPacketHeader gateType gateTag eventNumber)
    (hout : s.insideOcb = false) : exec i s = wordStep (sdStray i) s := by
  have hclosed : ¬ s.consume.insideOcb = true := by simp [hout]
  cases hi : i.interior with
  | true =>
    rw [exec_interior i s hi]
    exact wordStep_congr (if_neg hclosed)
  | false =>
    cases i with
    | ocbPacketHeader gateType gateTag eventNumber => exact absurd rfl (hheader gateType gateTag eventNumber)
    | ocbPacketTrailer gateType gateTag errors unused =>
      exact wordStep_congr (rule := sdClose (.ocbPacketTrailer gateType gateTag errors unused)) (if_neg hclosed)
    | reserved0xA => cases hknown
    | _ => cases hi

theorem sdStray_discard {s : State} (h : s.params.strayPolicy = .discard) (w : Instr) : sdStray w s = .ok s := by
  rw [sdStray, h]

theorem sdStray_fault {s : State} (h : s.params.strayPolicy = .fault) (w : Instr) :
    sdStray w s = .error (.strayWord w.wordId) := by
  rw [sdStray, h]

/-- Settles O22: the policy decides the rule of a stray word. -/
theorem strayWordsFollowPolicy : Obligations.StrayWordsFollowPolicy := by
  intro i s hknown hheader hf hout
  rw [exec_stray hknown hheader hout]
  exact ⟨fun hpolicy => wordStep_ok hf (sdStray_discard (s := s.consume) hpolicy i),
    fun hpolicy => wordStep_error hf (sdStray_fault (s := s.consume) hpolicy i)⟩

end Sys2Proof.Machine
end

section
/-! PROOFS. Envelopes without a FEB packet, and whole envelopes as runs of the OCB Assembler (R258, R274, R278,
R306). -/

namespace Sys2Proof.Machine

/-! ### Envelopes without a FEB packet -/

/-- Only a FEBDataPacketTrailer writes a slot of the event (R250). -/
theorem oaVisit_keeps_event {B : List Instr} {w : Instr} {r r' : OARegs} (hw : trailerStatus w = none)
    (h : oaVisit B w r = .ok r') : r'.event = r.event := by
  obtain ⟨_, ⟨_, _, _, _, _, _, hevent, _⟩ | ⟨hevent, _⟩ | ⟨_, _, hstatus, _⟩⟩ := oaVisit_cases h
  · exact hevent
  · exact hevent
  · exact absurd hw hstatus

/-- A walk over words without a FEBDataPacketTrailer ends, with the event it began with. -/
theorem oaWalk_without_feb (B : List Instr) {ws : List Instr} (hws : ∀ w ∈ ws, trailerStatus w = none) (r : OARegs) :
    ∃ r', walk (oaVisit B) ws r = .ok r' ∧ r'.event = r.event := by
  have hstep : ∀ w ∈ ws, ∀ x x', oaVisit B w x = .ok x' → x.event = r.event → x'.event = r.event :=
    fun w hw _ _ hvisit hx => (oaVisit_keeps_event (hws w hw) hvisit).trans hx
  cases hwalk : walk (oaVisit B) ws r with
  | ok r' => exact ⟨r', rfl, walk_keeps (fun x => x.event = r.event) hstep hwalk rfl⟩
  | error e =>
    obtain ⟨w, hw, _, _, hvisit⟩ := walk_error (fun x => x.event = r.event) hstep hwalk rfl
    obtain ⟨hstatus, _⟩ := oaVisit_error hvisit
    exact absurd (hws w hw) hstatus

/-- The OCB Assembler on a matching header and trailer without a FEB packet between them: nine empty slots, and no
warning if nothing stands between them (R231, R232, R258). -/
theorem ocbAssemble_without_feb (gateType : BitVec 3) (gateTag : BitVec 2) (eventNumber : BitVec 23)
    (errors : BitVec 16) (unused : BitVec 7) {mid : List Instr} (hmid : ∀ w ∈ mid, trailerStatus w = none) :
    ∃ warnings,
      ocbAssemble (.ocbPacketHeader gateType gateTag eventNumber ::
          (mid ++ [.ocbPacketTrailer gateType gateTag errors unused])) =
        .ok ({ eventNumber, gateType, gateTag, errors, febs := Vector.replicate 9 none }, warnings) ∧
      (mid = [] → warnings = []) := by
  rw [ocbAssemble_eq, ocbRun_envelope, if_pos ⟨rfl, rfl⟩]
  obtain ⟨r, hwalk, hevent⟩ := oaWalk_without_feb _ hmid (oaBegin gateType gateTag eventNumber errors)
  refine ⟨r.warnings, ?_, ?_⟩
  · rw [hwalk, Except.map, hevent]
    rfl
  · rintro rfl
    cases hwalk
    rfl

/-- Settles O20: the OCB Assembler gives the event, and the trailer emits it. -/
theorem envelopeWithoutFebGivesEmptyEvent : Obligations.EnvelopeWithoutFebGivesEmptyEvent := by
  intro s gateType gateTag eventNumber errors unused mid hf hin hroom hbuf hmid
  obtain ⟨warnings, hassemble, hempty⟩ := ocbAssemble_without_feb gateType gateTag eventNumber errors unused hmid
  rw [← List.cons_append, ← hbuf] at hassemble
  exact ⟨_, warnings, exec_trailer_of_ok hf hin hroom hassemble, rfl, hf, rfl, rfl, rfl, hempty⟩

/-! ### Whole envelopes -/

/-- A header, interior words and a trailer, as words of the stream (R272 to R274). -/
structure IsEnvelope (h : Word) (mid : List Word) (z : Word) : Prop where
  header : ∃ hType hTag number, decode h = .ocbPacketHeader hType hTag number
  interior : ∀ w ∈ mid, (decode w).interior = true
  trailer : ∃ tType tTag errors unused, decode z = .ocbPacketTrailer tType tTag errors unused

/-- The input items of an envelope, with what follows it. -/
def envelopeItems (h : Word) (mid : List Word) (z : Word) (rest : List InputItem) : List InputItem :=
  .word h :: (mid.map .word ++ .word z :: rest)

/-- The decoded words of an envelope, what its trailer gives to the OCB Assembler (R274). -/
def envelopeWords (h : Word) (mid : List Word) (z : Word) : List Instr := decode h :: (mid.map decode ++ [decode z])

/-- Outside any envelope, not faulted, with an unbounded buffer. -/
structure State.AwaitsEnvelope (s : State) : Prop where
  fault : s.fault = none
  outside : s.insideOcb = false
  unbounded : s.params.maxOcbWords = none

/-- Inside an envelope, not faulted, with an unbounded buffer. -/
structure State.FillsEnvelope (s : State) : Prop where
  fault : s.fault = none
  inside : s.insideOcb = true
  unbounded : s.params.maxOcbWords = none

/-- A run over interior words buffers them, decoded, and moves past them (R273, R279). -/
theorem run_interior {ws : List Word} {rest : List InputItem} (hws : ∀ w ∈ ws, (decode w).interior = true) {s : State}
    (hs : s.FillsEnvelope) (hinput : s.input = ws.map .word ++ rest) :
    Sys2Proof.core.run ws.length s =
      .next { s with input := rest, buf := s.buf ++ ws.map decode, pos := s.pos + ws.length } := by
  induction ws generalizing s with
  | nil =>
    obtain rfl : s.input = rest := hinput
    simp [Host.Core.run]
  | cons w ws ih =>
    have hstep : step s =
        .next { s with input := s.input.tail, buf := s.buf ++ [decode w], pos := s.pos + 1 } :=
      (step_of_word hinput).trans
        (exec_interior_of_room (hws w List.mem_cons_self) hs.fault hs.inside (hasRoom_of_unbounded hs.unbounded))
    refine (core_run_next _ hstep).trans ((ih ?_ ?_ ?_).trans ?_)
    · exact fun v hv => hws v (List.mem_cons_of_mem _ hv)
    · exact ⟨hs.fault, hs.inside, hs.unbounded⟩
    · simp only [hinput, List.map_cons, List.cons_append, List.tail_cons]
    · simp [Nat.add_assoc, Nat.add_comm 1]

/-- The state before the trailer of an envelope: header and interior stand in the buffer, the trailer is the next
item. -/
def State.atTrailer (s : State) (h : Word) (mid : List Word) (z : Word) (rest : List InputItem) : State :=
  { s with
    input := .word z :: rest, buf := decode h :: mid.map decode, insideOcb := true, pos := s.pos + mid.length + 1 }

section
variable {h z : Word} {mid : List Word} {rest : List InputItem} {s : State}

/-- The run up to the trailer (R272, R273). -/
theorem run_to_trailer (henv : IsEnvelope h mid z) (hs : s.AwaitsEnvelope)
    (hinput : s.input = envelopeItems h mid z rest) :
    Sys2Proof.core.run (mid.length + 1) s = .next (s.atTrailer h mid z rest) := by
  obtain ⟨hType, hTag, number, hheader⟩ := henv.header
  have hstep : step s = .next { s with
      input := mid.map .word ++ .word z :: rest, buf := [decode h], insideOcb := true, pos := s.pos + 1 } := by
    rw [step_of_word hinput, hheader, exec_header_outside hs.fault hs.outside (by simp [hs.unbounded]), hinput]
    rfl
  refine (core_run_next _ hstep).trans ((run_interior henv.interior ?_ rfl).trans ?_)
  · exact ⟨hs.fault, rfl, hs.unbounded⟩
  · rw [Nat.add_right_comm s.pos]
    rfl

/-- The run over an envelope ends with what its trailer does. -/
theorem run_envelope {t : State} (henv : IsEnvelope h mid z) (hs : s.AwaitsEnvelope)
    (hinput : s.input = envelopeItems h mid z rest) (htrailer : exec (decode z) (s.atTrailer h mid z rest) = .next t) :
    Sys2Proof.core.run (mid.length + 2) s = .next t := by
  rw [core_run_add (mid.length + 1) 1 s _ (run_to_trailer henv hs hinput)]
  exact core_run_next 0 ((step_of_word rfl).trans htrailer)

/-- An envelope that assembles is run to its event (R274). -/
theorem run_envelope_of_ok {ev : OCBEvent} {warnings : List Warning} (henv : IsEnvelope h mid z) (hs : s.AwaitsEnvelope)
    (hinput : s.input = envelopeItems h mid z rest) (hok : ocbAssemble (envelopeWords h mid z) = .ok (ev, warnings)) :
    Sys2Proof.core.run (mid.length + 2) s = .next { s with
      input := rest, pos := s.pos + mid.length + 2, buf := [], insideOcb := false,
      out := s.out ++ [.event ev warnings], oa := OARegs.start, fa := FARegs.start, ga := GARegs.start } := by
  obtain ⟨tType, tTag, errors, unused, htrailer⟩ := henv.trailer
  rw [envelopeWords, htrailer] at hok
  refine run_envelope henv hs hinput ?_
  rw [htrailer]
  exact exec_trailer_of_ok (s := s.atTrailer h mid z rest) hs.fault rfl (hasRoom_of_unbounded hs.unbounded) hok

/-- An envelope that does not assemble is run to its fatal error, at the position of its trailer (R274, R277). -/
theorem run_envelope_of_error {e : FatalError} (henv : IsEnvelope h mid z) (hs : s.AwaitsEnvelope)
    (hinput : s.input = envelopeItems h mid z rest) (herror : ocbAssemble (envelopeWords h mid z) = .error e) :
    Sys2Proof.core.run (mid.length + 2) s = .next { s with
      input := rest, pos := s.pos + mid.length + 1, buf := [], insideOcb := false,
      fault := some { error := e, pos := s.pos + mid.length + 1 },
      out := s.out ++ [.fault { error := e, pos := s.pos + mid.length + 1 }],
      oa := OARegs.start, fa := FARegs.start, ga := GARegs.start } := by
  obtain ⟨tType, tTag, errors, unused, htrailer⟩ := henv.trailer
  rw [envelopeWords, htrailer] at herror
  refine run_envelope henv hs hinput ?_
  rw [htrailer]
  exact exec_trailer_of_error (s := s.atTrailer h mid z rest) hs.fault rfl (hasRoom_of_unbounded hs.unbounded) herror

end

/-- Settles O56: the run up to the trailer fills the buffer with the decoded words, and the trailer assembles it. -/
theorem envelopeRunsTheAssembler : Obligations.EnvelopeRunsTheAssembler := by
  intro s h z mid rest hType tType hTag tTag number errors unused hf hout hcap hh hz hmid hinput
  have henv : IsEnvelope h mid z := ⟨⟨_, _, _, hh⟩, hmid, ⟨_, _, _, _, hz⟩⟩
  exact ⟨fun _ _ => run_envelope_of_ok henv ⟨hf, hout, hcap⟩ hinput,
    fun _ => run_envelope_of_error henv ⟨hf, hout, hcap⟩ hinput⟩

/-- Settles O57: the first envelope leaves the block awaiting the second, and the OCB Assembler sees the same words. -/
theorem samePacketTwiceGivesEqualEvents : Obligations.SamePacketTwiceGivesEqualEvents := by
  intro s h z mid rest hType tType hTag tTag number errors unused ev warnings hf hout hcap hh hz hmid hok hinput
  have henv : IsEnvelope h mid z := ⟨⟨_, _, _, hh⟩, hmid, ⟨_, _, _, _, hz⟩⟩
  have hfirst := run_envelope_of_ok (rest := envelopeItems h mid z rest) henv ⟨hf, hout, hcap⟩ hinput hok
  refine ⟨_, (core_run_add _ _ s _ hfirst).trans
    (run_envelope_of_ok (rest := rest) henv ⟨hf, rfl, hcap⟩ rfl hok), ?_, hf, rfl⟩
  exact List.append_assoc s.out [.event ev warnings] [.event ev warnings]

end Sys2Proof.Machine
end

section
/-! PROOFS. Reset and the host's reset: their values, and the form of the state they give (R24, R66, R307, R340). -/

namespace Sys2Proof.Machine

/-- Settles O23: every register's value stands in the definition of reset, and the host's reset is reset with the
host's own two fields put back. -/
theorem resetValues : Obligations.ResetValues :=
  ⟨⟨rfl, rfl, rfl, rfl, rfl, rfl, rfl, rfl, rfl⟩, fun _ => rfl⟩

/-- The host's reset gives the form of the state back from any state, faulted or not and whatever the parameters: the
cleared buffer is within every capacity, and with neither record nor output no Fault item is out of place (R307). -/
theorem hostReset_wf (s : State) : s.hostReset.wf = true :=
  (State.wf_iff _).mpr
    ⟨memory_wf_clear, capacityWf_of_nil s.hostReset_buf, rfl, faultWf_of_running s.hostReset_fault rfl⟩

/-- In the state after reset the host's reset finds nothing to change. -/
theorem hostReset_reset : State.reset.hostReset = State.reset := rfl

/-- Settles O24: the state after reset is its own host's reset, so it has the form that one gives; nothing is emitted
and no item is supplied yet. -/
theorem resetIsWellFormed : Obligations.ResetIsWellFormed := by
  have hstate : State.reset.wf = true := hostReset_reset ▸ hostReset_wf State.reset
  have hout : State.reset.out.all OutItem.wf = true := List.all_nil
  have hinput : inputWf State.reset.input = true := rfl
  exact ⟨hstate, hout, hinput⟩

end Sys2Proof.Machine
end
